-- ==== Sys2Proof/Word.lean ====
section
/-! DEFINITION. The one word of this hardware: the byte of the bus. -/

namespace Sys2Proof

/-- `u8`, the RawByte of R9 and R57: width `BYTE_W` = 8 (R6). -/
abbrev Byte := BitVec 8

end Sys2Proof
end

