-- ==== Sys2Proof/Syntax.lean ====
section
/-! DEFINITION. The instructions: one constructor per row of spec/opcode_table.json. An instruction of this block
is a frame, a command byte followed by its payload bytes (R8, R70). -/

namespace Sys2Proof

/-- A frame, or the idle byte. The operands are the payload bytes in stream order (R55); how many a command has is
its row of the length table (R72). -/
inductive Instr where
  /-- `IDLE`: the byte 0x00 between frames (R74, R101). -/
  | idle
  /-- `DEPTH`, command 0x01, format F3 (R132). -/
  | depth (p0 p1 p2 : Byte)
  /-- `AWA`, command 0x20, format F2 (R133). -/
  | awa (p0 p1 : Byte)
  /-- `AWS`, command 0x21, format F2 (R134). -/
  | aws (p0 p1 : Byte)
  /-- `STW`, command 0x22, format F2 (R135). -/
  | stw (p0 p1 : Byte)
  /-- `WTEMP`, command 0x23, format F2 (R136). -/
  | wtemp (p0 p1 : Byte)
  /-- `LOG`, command 0x26, format F2: two payload bytes, although its decoder reads three (R137, R142, C1). -/
  | log (p0 p1 : Byte)
  /-- `HDG`, command 0x30, format F1: one payload byte, although its decoder reads two (R138, R142, C2). -/
  | hdg (p0 : Byte)
  /-- `UNK cmd`: any of the 248 unknown commands, format F2 (R73, R105). -/
  | unk (cmd p0 p1 : Byte)
  deriving DecidableEq, Repr

end Sys2Proof
end

