-- ==== Sys2Proof/WellFormed.lean ====
section
/-! DEFINITION. Which terms of `Instr` are instructions. Operand widths are in the types; the one check left is that
the command of an `UNK` is an unknown command. -/

namespace Sys2Proof

/-- The eight first bytes that are no unknown command: the idle byte and the seven known commands (R73). -/
def notUnknown : List Byte := [0x00, 0x01, 0x20, 0x21, 0x22, 0x23, 0x26, 0x30]

/-- R73: an unknown command is any byte but 0x00 and the seven listed commands. -/
def Instr.wellFormed : Instr → Bool
  | .idle => true
  | .depth _ _ _ => true
  | .awa _ _ => true
  | .aws _ _ => true
  | .stw _ _ => true
  | .wtemp _ _ => true
  | .log _ _ => true
  | .hdg _ => true
  | .unk cmd _ _ => !notUnknown.contains cmd

end Sys2Proof
end

