-- ==== Sys2Proof/Decode.lean ====
section
/-! DEFINITION. From bytes to frames and back (R70 to R75, R81). Decoding starts at a frame boundary, that is in
WAIT_FOR_START: the byte 0x00 is IDLE there and payload anywhere else (R107). -/

namespace Sys2Proof

/-- Why a list of bytes is no frame yet. No byte sequence is illegal (R77): the only reason is that bytes are
missing. -/
inductive DecodeError where
  /-- No byte at all. -/
  | noByte
  /-- A command byte whose payload is not complete: the frame being assembled. -/
  | truncated (cmd : Byte)
  deriving DecidableEq, Repr

/-- Format F1 (R71): command, `p0`. -/
def decodeF1 (cmd : Byte) (mk : Byte → Instr) : List Byte → Except DecodeError (Instr × List Byte)
  | p0 :: rest => .ok (mk p0, rest)
  | [] => .error (.truncated cmd)

/-- Format F2 (R71): command, `p0`, `p1`. -/
def decodeF2 (cmd : Byte) (mk : Byte → Byte → Instr) : List Byte → Except DecodeError (Instr × List Byte)
  | p0 :: p1 :: rest => .ok (mk p0 p1, rest)
  | _ => .error (.truncated cmd)

/-- Format F3 (R71): command, `p0`, `p1`, `p2`. -/
def decodeF3 (cmd : Byte) (mk : Byte → Byte → Byte → Instr) : List Byte → Except DecodeError (Instr × List Byte)
  | p0 :: p1 :: p2 :: rest => .ok (mk p0 p1 p2, rest)
  | _ => .error (.truncated cmd)

/-- The opcode map of R81, on the command byte and what follows it. -/
def decodeFrame (cmd : Byte) (rest : List Byte) : Except DecodeError (Instr × List Byte) :=
  if cmd = 0x00 then .ok (.idle, rest)
  else if cmd = 0x01 then decodeF3 cmd .depth rest
  else if cmd = 0x20 then decodeF2 cmd .awa rest
  else if cmd = 0x21 then decodeF2 cmd .aws rest
  else if cmd = 0x22 then decodeF2 cmd .stw rest
  else if cmd = 0x23 then decodeF2 cmd .wtemp rest
  else if cmd = 0x26 then decodeF2 cmd .log rest
  else if cmd = 0x30 then decodeF1 cmd .hdg rest
  else decodeF2 cmd (.unk cmd) rest

/-- The first frame of a list of bytes, and the bytes after it. -/
def decode : List Byte → Except DecodeError (Instr × List Byte)
  | [] => .error .noByte
  | cmd :: rest => decodeFrame cmd rest

/-- The bytes of a frame in stream order (R71). -/
def encode : Instr → List Byte
  | .idle => [0x00]
  | .depth p0 p1 p2 => [0x01, p0, p1, p2]
  | .awa p0 p1 => [0x20, p0, p1]
  | .aws p0 p1 => [0x21, p0, p1]
  | .stw p0 p1 => [0x22, p0, p1]
  | .wtemp p0 p1 => [0x23, p0, p1]
  | .log p0 p1 => [0x26, p0, p1]
  | .hdg p0 => [0x30, p0]
  | .unk cmd p0 p1 => [cmd, p0, p1]

/-- Bytes written as one number, the first byte most significant (R71, D20). -/
def wordOfBytes (bs : List Byte) : Nat := bs.foldl (fun acc b => acc * 256 + b.toNat) 0

/-- A frame written as one number (R71, R83). -/
def frameWord (i : Instr) : Nat := wordOfBytes (encode i)

/-- The `n` bytes of a number written as R71 writes a frame: the first byte is the most significant. -/
def bytesOfWord : (n : Nat) → (w : Nat) → List Byte
  | 0, _ => []
  | n + 1, w => BitVec.ofNat 8 (w >>> (8 * n)) :: bytesOfWord n w

/-- The bytes on the stream of a table word of `nbits` bits: the row's bytes, then zeros up to the longest frame
(log 6). -/
def tableWordBytes (nbits w : Nat) : List Byte :=
  bytesOfWord (nbits / 8) w ++ List.replicate (4 - nbits / 8) 0x00

/-- The frame the decoder reads from a word of spec/opcode_table.json (log 6). -/
def decodeTableWord (nbits w : Nat) : Option Instr :=
  match decode (tableWordBytes nbits w) with
  | .ok (i, _) => some i
  | .error _ => none

end Sys2Proof
end

