-- ==== Sys2Proof/Config.lean ====
section
/-! DEFINITION. What an implementation fixes (R6, R28). The canonical VALUES that a test could show wrong
(the length table's rows, the decoders' constants) stand in Machine/Table.lean and Machine/Decoders.lean. -/

namespace Sys2Proof

/-- A Command Length Table as stored data (R29): the rows it lists, and the payload length of every command it
does not list. A machine is built for one table; `feedWith` takes any (D15, U2). -/
structure LengthTable where
  rows : List (Byte × Nat)
  defaultLen : Nat
  deriving DecidableEq, Repr

/-- One of the 256 entries of the table as R29 lays it out: a payload length and the *known* bit. -/
structure TableEntry where
  len : Nat
  known : Bool
  deriving DecidableEq, Repr

/-- OPEN parameter `CLK_HZ` (R6, D1): no rule reads it and no step of the model does (log 8). -/
opaque Config.clkHz : Nat

/-- OPEN parameter `READING_FLOAT_FORMAT` (R6, R140, D14): the bit pattern a sink may render for the exact value
`mantissa * 10 ^ (-exponent)`. Outside the block; no step reads it (log 8). -/
opaque Config.readingFloatFormat : (mantissa : Int) → (exponent : Nat) → Nat

end Sys2Proof
end

