-- ==== Sys2Proof/Machine/State.lean ====
section
/-! DEFINITION. The machine's state as plain data: ParserState (R20 to R24), the port values of a cycle (R38 to R40),
and what the host's interface needs beside them (the coming input cycles, the outputs so far, the start-up
condition of R182). -/

namespace Sys2Proof.Machine

/-- R21: the two framing positions. -/
inductive Mode where
  | waitForStart
  | inMessage
  deriving DecidableEq, Repr

/-- ParserState, "exclusively owned by the Frame Assembler" (R20): the block's whole mutable state. -/
structure Parser where
  /-- R21. -/
  mode : Mode
  /-- R22. -/
  currentCommand : Byte
  /-- R23. -/
  expectedLength : Byte
  /-- R24: the payload bytes received so far, first received first (D7 lets a model use a list, log 9). -/
  accumulatedPayload : List Byte
  deriving DecidableEq, Repr

/-- R31: a completed frame. An output of one step, never kept. -/
structure Message where
  command : Byte
  payload : List Byte
  deriving DecidableEq, Repr

/-- R32, R131: an exact decoded value, `mantissa * 10 ^ (-k)` with `k` fixed by `cmd`. An output of one step. -/
structure Reading where
  cmd : Byte
  mantissa : Int
  deriving DecidableEq, Repr

/-- The outputs of one step (R7, R10): at most one Message, at most one Reading, at most one unknown-command
diagnostic with the command it names. -/
structure Outputs where
  message : Option Message
  reading : Option Reading
  diagUnknown : Option Byte
  deriving DecidableEq, Repr

/-- The output ports in one cycle: the Message port (R38), the Reading port (R39), the diagnostic port (R40). -/
structure Ports where
  msgValid : Bool
  msgCmd : Byte
  msgLen : BitVec 2
  msgP0 : Byte
  msgP1 : Byte
  msgP2 : Byte
  rdValid : Bool
  rdCmd : Byte
  rdValue : BitVec 32
  diagUnknown : Bool
  deriving DecidableEq, Repr

/-- What stands on the input ports in one clock cycle (R38). -/
structure InputCycle where
  rst : Bool
  inValid : Bool
  inByte : Byte
  deriving DecidableEq, Repr

/-- Why the machine would stop with a fault. There is no constructor: "the core never raises an unrecoverable fault
for bad input" (R77, R112, R164). -/
inductive Fault where
  deriving DecidableEq, Repr

/-- Where the spec gives a step no behaviour, or the model none yet. -/
inductive Refusal where
  /-- Raised by exec's arms for an instruction that has no meaning yet. Safe: nothing is claimed of it. -/
  | notModelled (mnemonic : String)
  /-- Raised by feeding a byte to a block that has not been reset since power-on (R182, D3, U11). Safe. -/
  | notYetReset
  /-- Raised by feeding a byte in a register pattern that breaks the invariant of R25 (D17, U11). Safe. -/
  | unreachableState
  deriving DecidableEq, Repr

/-- The state of the machine. -/
structure State where
  /-- ParserState (R20). -/
  parser : Parser
  /-- The block has been reset since power-on (R182, log 4). -/
  wasReset : Bool
  /-- The clock cycles the outside will present, next first (R190, log 2). -/
  input : List InputCycle
  /-- The output ports as driven in the last cycle (R41). -/
  ports : Ports
  /-- The outputs of the run so far, one entry per fed byte, oldest first (R191, log 3). -/
  results : List Outputs
  deriving DecidableEq, Repr

/-- State (W) of R25: the reset value of every register (R35). -/
def Parser.reset : Parser :=
  { mode := .waitForStart, currentCommand := 0x00, expectedLength := 0x00, accumulatedPayload := [] }

/-- All output signals 0 (R35, R41). -/
def Ports.zero : Ports :=
  { msgValid := false, msgCmd := 0x00, msgLen := 0, msgP0 := 0x00, msgP1 := 0x00, msgP2 := 0x00
    rdValid := false, rdCmd := 0x00, rdValue := 0, diagUnknown := false }

/-- A step's outputs when nothing is output. -/
def Outputs.quiet : Outputs := { message := none, reading := none, diagUnknown := none }

/-- The machine right after reset (R35, R180). -/
def State.reset : State :=
  { parser := Parser.reset, wasReset := true, input := [], ports := Ports.zero, results := [] }

end Sys2Proof.Machine
end

