-- ==== Sys2Proof/Machine/Table.lean ====
section
/-! DEFINITION. The Command Length Table (R29, R53, R72) and what a well-formed table is (D16). -/

namespace Sys2Proof.Machine

/-- The seven rows and the default of R72, the normative value of `LEN_TABLE` (D15). -/
def lenTable : LengthTable :=
  { rows := [(0x01, 3), (0x20, 2), (0x21, 2), (0x22, 2), (0x23, 2), (0x26, 2), (0x30, 1)]
    defaultLen := 2 }

/-- The entry of command byte `c`, out of the 256 (R29): its row's length, or the default and not *known*. -/
def tableEntry (T : LengthTable) (c : Byte) : TableEntry :=
  match T.rows.lookup c with
  | some n => { len := n, known := true }
  | none => { len := T.defaultLen, known := false }

/-- `LEN(c)` over a given table (R53). -/
def tableLen (T : LengthTable) (c : Byte) : Nat := (tableEntry T c).len

/-- `KNOWN(c)` over a given table (R53). -/
def tableKnown (T : LengthTable) (c : Byte) : Bool := (tableEntry T c).known

/-- `LEN(c)` of the block (R53, R72). -/
def LEN (c : Byte) : Nat := tableLen lenTable c

/-- `KNOWN(c)` of the block (R53). -/
def KNOWN (c : Byte) : Bool := tableKnown lenTable c

/-- D16: an entry is 1, 2 or 3; anything else is ill-formed configuration with no behaviour (R29). -/
def legalLen (n : Nat) : Bool := 1 ≤ n && n ≤ 3

/-- D16 for a whole table. -/
def tableLegal (T : LengthTable) : Bool := legalLen T.defaultLen && T.rows.all (fun r => legalLen r.2)

end Sys2Proof.Machine
end

