-- ==== Sys2Proof/Machine/Ops.lean ====
section
/-! DEFINITION. The named operations on the registers (R51, R52, R102 to R104), the state invariant (R25), and the two
cycles that feed nothing (R110, R180). The block takes no exception and returns from none (R164, R167, R168), so there
is no such operation. -/

namespace Sys2Proof.Machine

/-- `count` = `len(accumulatedPayload)` (R24). -/
def Parser.count (p : Parser) : Nat := p.accumulatedPayload.length

/-- R51, `PayloadAppend(b)`: one byte, to the lowest free index. -/
def Parser.payloadAppend (p : Parser) (b : Byte) : Parser :=
  { p with accumulatedPayload := p.accumulatedPayload ++ [b] }

/-- R102, `frame_start(b)`: latch the command and its table length, clear the payload, enter IN_MESSAGE. -/
def Parser.frameStart (T : LengthTable) (b : Byte) : Parser :=
  { mode := .inMessage, currentCommand := b, expectedLength := BitVec.ofNat 8 (tableLen T b), accumulatedPayload := [] }

/-- The test of R100 and D23: the byte about to be fed is the frame's last. -/
def Parser.lastByteDue (p : Parser) : Bool := p.count + 1 == p.expectedLength.toNat

/-- The Message that feeding the last byte `b` completes (R104). -/
def Parser.completed (p : Parser) (b : Byte) : Message :=
  { command := p.currentCommand, payload := p.accumulatedPayload ++ [b] }

/-- The bytes of the frame being assembled that have been fed so far: none in WAIT_FOR_START; the command and the
accumulated payload in IN_MESSAGE (R26, R108). -/
def Parser.fetched (p : Parser) : List Byte :=
  match p.mode with
  | .waitForStart => []
  | .inMessage => p.currentCommand :: p.accumulatedPayload

/-- The invariant of R25 over a table: the state is (W), or it is an (M) state. -/
def Parser.inv (T : LengthTable) (p : Parser) : Bool :=
  match p.mode with
  | .waitForStart => p.currentCommand == 0x00 && p.expectedLength == 0x00 && p.accumulatedPayload == []
  | .inMessage =>
    p.currentCommand != 0x00 && p.expectedLength.toNat == tableLen T p.currentCommand &&
      legalLen p.expectedLength.toNat && decide (p.count < p.expectedLength.toNat)

/-- R52, `p[i]`: byte `i` of a Message's payload. Every rule reads only indices below the payload's length; the 0x00
beyond it is never read (log 10). -/
def Message.p (m : Message) (i : Nat) : Byte := m.payload.getD i 0x00

/-- A cycle in which `rst` is 1 (R180): every register takes its reset value, all outputs are 0, the byte presented is
lost, and a new run begins (R191, log 3). The cycles still to come stay. -/
def State.resetCycle (s : State) : State := { State.reset with input := s.input }

/-- A cycle with no byte (R110): the registers hold and all outputs are 0. -/
def State.idleCycle (s : State) : State := { s with ports := Ports.zero }

end Sys2Proof.Machine
end

