-- ==== Sys2Proof/Machine/Operands.lean ====
section
/-! DEFINITION. The raw integers a decoder assembles from payload bytes (R54, R76): unsigned, most significant byte
first, over unbounded integers (R9). -/

namespace Sys2Proof.Machine

/-- `raw8 = p0` (R76). -/
def raw8 (p0 : Byte) : Nat := p0.toNat

/-- `raw16 = (p0<<8) | p1` (R76). -/
def raw16 (p0 p1 : Byte) : Nat := (p0.toNat <<< 8) ||| p1.toNat

/-- `raw15 = ((p0 & 0x7F)<<8) | p1` (R76): bit 7 of `p0` is discarded (R78). -/
def raw15 (p0 p1 : Byte) : Nat := ((p0.toNat &&& 0x7F) <<< 8) ||| p1.toNat

/-- `raw24 = (p0<<16) | (p1<<8) | p2` (R76). -/
def raw24 (p0 p1 p2 : Byte) : Nat := (p0.toNat <<< 16) ||| (p1.toNat <<< 8) ||| p2.toNat

end Sys2Proof.Machine
end

