-- ==== Sys2Proof/Machine/Decoders.lean ====
section
/-! DEFINITION. The seven payload decoders (R130 to R138), the fixed registry (R121) and the Message Dispatcher
(R120). -/

namespace Sys2Proof.Machine

/-- A decoder (R130): the command it matches, its own minimum payload length (R141, D12), its formula for the
mantissa. A decoder reads only the Message. -/
structure Decoder where
  cmd : Byte
  minLen : Nat
  formula : Message → Int

/-- What a decoder does with a Message (R130, R162). The two ways to skip are the two causes of condition X2; neither
shows on any port. -/
inductive ListenerResult where
  /-- X2: the Message's command is not this decoder's. -/
  | mismatch
  /-- X2: the payload is shorter than the decoder's minimum. -/
  | undersized
  /-- `emit Reading` (R144). -/
  | emitted (r : Reading)
  deriving DecidableEq, Repr

/-- `on_message` (R130): check the command, check the length, compute, emit. -/
def Decoder.onMessage (d : Decoder) (m : Message) : ListenerResult :=
  if m.command ≠ d.cmd then .mismatch
  else if m.payload.length < d.minLen then .undersized
  else .emitted { cmd := d.cmd, mantissa := d.formula m }

/-- R132: metres, `k` = 5; 0.1 * 0.3048 = 3048 * 10^-5. -/
def depthDecoder : Decoder := { cmd := 0x01, minLen := 2, formula := fun m => (raw16 (m.p 0) (m.p 1) : Int) * 3048 }

/-- R133: degrees, signed, `k` = 0. -/
def awaDecoder : Decoder := { cmd := 0x20, minLen := 1, formula := fun m => (raw8 (m.p 0) : Int) * 2 - 180 }

/-- R134: knots, `k` = 1. -/
def awsDecoder : Decoder := { cmd := 0x21, minLen := 2, formula := fun m => (raw16 (m.p 0) (m.p 1) : Int) }

/-- R135: knots, `k` = 1. -/
def stwDecoder : Decoder := { cmd := 0x22, minLen := 2, formula := fun m => (raw15 (m.p 0) (m.p 1) : Int) }

/-- R136: degrees Celsius, `k` = 1; 10.0 is 100 mantissa units. -/
def wtempDecoder : Decoder := { cmd := 0x23, minLen := 2, formula := fun m => (raw16 (m.p 0) (m.p 1) : Int) - 100 }

/-- R137: nautical miles, `k` = 1; three payload bytes. -/
def logDecoder : Decoder := { cmd := 0x26, minLen := 3, formula := fun m => (raw24 (m.p 0) (m.p 1) (m.p 2) : Int) }

/-- R138: degrees, `k` = 1. -/
def hdgDecoder : Decoder := { cmd := 0x30, minLen := 2, formula := fun m => (raw16 (m.p 0) (m.p 1) : Int) }

/-- The listener registry (R30, R121, D11): the seven decoders in registration order. -/
def registry : List Decoder :=
  [depthDecoder, awaDecoder, awsDecoder, stwDecoder, wtempDecoder, logDecoder, hdgDecoder]

/-- `dispatch(Message)` (R120): every listener sees the Message, in registration order. -/
def dispatch (m : Message) : List ListenerResult := registry.map (fun d => d.onMessage m)

/-- The Reading a listener emitted, if it did. -/
def ListenerResult.reading : ListenerResult → Option Reading
  | .mismatch => none
  | .undersized => none
  | .emitted r => some r

/-- The Readings emitted for a Message, in registration order. -/
def readings (m : Message) : List Reading := (dispatch m).filterMap ListenerResult.reading

/-- `RD_EXP` (R6, R131): the decimal exponent of a command's Readings. -/
def rdExp (cmd : Byte) : Nat :=
  if cmd = 0x01 then 5 else if cmd = 0x20 then 0 else 1

/-- The value of a Reading (R131): `mantissa * 10 ^ (-k)`, exact. -/
def Reading.value (r : Reading) : Rat := (r.mantissa : Rat) / (10 : Rat) ^ rdExp r.cmd

end Sys2Proof.Machine
end

