-- ==== Sys2Proof/Machine/Flags.lean ====
section
/-! DEFINITION. The block has no flags (R27). What other machines' flags are, its three strobes are: the outputs of a
step and their rendering on the ports (R38 to R41). -/

namespace Sys2Proof.Machine

/-- The outputs of a frame start (R102, R105): the diagnostic exactly when the table does not list the byte. -/
def startOutputs (T : LengthTable) (b : Byte) : Outputs :=
  { message := none, reading := none, diagUnknown := if tableKnown T b then none else some b }

/-- The outputs of a frame completion (R104, R120): the Message, and the Reading of the decoder that emits. -/
def completionOutputs (m : Message) : Outputs :=
  { message := some m, reading := (readings m).head?, diagUnknown := none }

/-- The Message port (R38): payload bytes at or above `msg_len` are 0x00. -/
def Ports.withMessage (o : Ports) (m : Message) : Ports :=
  { o with msgValid := true, msgCmd := m.command, msgLen := BitVec.ofNat 2 m.payload.length
           msgP0 := m.p 0, msgP1 := m.p 1, msgP2 := m.p 2 }

/-- The Reading port (R39): the mantissa as a 32-bit two's complement number. -/
def Ports.withReading (o : Ports) (r : Reading) : Ports :=
  { o with rdValid := true, rdCmd := r.cmd, rdValue := BitVec.ofInt 32 r.mantissa }

/-- The port values of a step with these outputs (R38 to R41): a group whose strobe is 0 is all 0. -/
def Outputs.ports (o : Outputs) : Ports :=
  let p := { Ports.zero with diagUnknown := o.diagUnknown.isSome }
  let p := match o.message with | some m => p.withMessage m | none => p
  match o.reading with | some r => p.withReading r | none => p

/-- A step drives its outputs (R41): the ports show them in this cycle, and the run's results record them (R191). -/
def State.emit (s : State) (o : Outputs) : State :=
  { s with ports := o.ports, results := s.results ++ [o] }

/-- R104: the Message is output and dispatched, and all four registers take their reset values (D5). -/
def State.frameComplete (s : State) (m : Message) : State :=
  { s with parser := Parser.reset }.emit (completionOutputs m)

end Sys2Proof.Machine
end

