-- ==== Sys2Proof/Machine/Idle.lean ====
section
/-! DEFINITION. The meaning of `IDLE`. -/

namespace Sys2Proof.Machine

/-- `IDLE` (R101): the byte is consumed; nothing is written and nothing is output. -/
def execIdle (s : State) : Host.Outcome State Fault Refusal :=
  .next (s.emit Outputs.quiet)

end Sys2Proof.Machine
end

