-- ==== Sys2Proof/Machine/Known.lean ====
section
/-! DEFINITION. The meanings of the seven known commands: what the step does that feeds the frame's last byte (R104).
The registers hold the command and the earlier payload bytes by then; all of the frame's bytes are the instruction's
operands. -/

namespace Sys2Proof.Machine

/-- `DEPTH` (R104, R132). -/
def execDepth (p0 p1 p2 : Byte) (s : State) : Host.Outcome State Fault Refusal :=
  .next (s.frameComplete { command := 0x01, payload := [p0, p1, p2] })

/-- `AWA` (R104, R133). -/
def execAwa (p0 p1 : Byte) (s : State) : Host.Outcome State Fault Refusal :=
  .next (s.frameComplete { command := 0x20, payload := [p0, p1] })

/-- `AWS` (R104, R134). -/
def execAws (p0 p1 : Byte) (s : State) : Host.Outcome State Fault Refusal :=
  .next (s.frameComplete { command := 0x21, payload := [p0, p1] })

/-- `STW` (R104, R135). -/
def execStw (p0 p1 : Byte) (s : State) : Host.Outcome State Fault Refusal :=
  .next (s.frameComplete { command := 0x22, payload := [p0, p1] })

/-- `WTEMP` (R104, R136). -/
def execWtemp (p0 p1 : Byte) (s : State) : Host.Outcome State Fault Refusal :=
  .next (s.frameComplete { command := 0x23, payload := [p0, p1] })

/-- `LOG` (R104, R137, R142): the Message appears; its decoder finds two bytes and skips. -/
def execLog (p0 p1 : Byte) (s : State) : Host.Outcome State Fault Refusal :=
  .next (s.frameComplete { command := 0x26, payload := [p0, p1] })

/-- `HDG` (R104, R138, R142): the Message appears; its decoder finds one byte and skips. -/
def execHdg (p0 : Byte) (s : State) : Host.Outcome State Fault Refusal :=
  .next (s.frameComplete { command := 0x30, payload := [p0] })

end Sys2Proof.Machine
end

