-- ==== Sys2Proof/Machine/Unknown.lean ====
section
/-! DEFINITION. The meaning of a frame of an unknown command. -/

namespace Sys2Proof.Machine

/-- `UNK` (R104, R105): the Message appears and no decoder matches. Its diagnostic was output by the step that fed the
command byte (`startOutputs`). -/
def execUnk (cmd p0 p1 : Byte) (s : State) : Host.Outcome State Fault Refusal :=
  .next (s.frameComplete { command := cmd, payload := [p0, p1] })

end Sys2Proof.Machine
end

