-- ==== Sys2Proof/Machine/Dispatch.lean ====
section
/-! DEFINITION. From an instruction to its meaning. -/

namespace Sys2Proof.Machine

/-- The effect of the step that feeds the last byte of instruction `i` (log 1). -/
def exec (i : Instr) (s : State) : Host.Outcome State Fault Refusal :=
  match i with
  | .idle => Sys2Proof.Machine.execIdle s
  | .depth p0 p1 p2 => Sys2Proof.Machine.execDepth p0 p1 p2 s
  | .awa p0 p1 => Sys2Proof.Machine.execAwa p0 p1 s
  | .aws p0 p1 => Sys2Proof.Machine.execAws p0 p1 s
  | .stw p0 p1 => Sys2Proof.Machine.execStw p0 p1 s
  | .wtemp p0 p1 => Sys2Proof.Machine.execWtemp p0 p1 s
  | .log p0 p1 => Sys2Proof.Machine.execLog p0 p1 s
  | .hdg p0 => Sys2Proof.Machine.execHdg p0 s
  | .unk cmd p0 p1 => Sys2Proof.Machine.execUnk cmd p0 p1 s

end Sys2Proof.Machine
end

