-- ==== Sys2Proof/Machine/Feed.lean ====
section
/-! DEFINITION. Feeding a byte (R100), one clock cycle (R110, R180), and placing a frame for the next step to run. -/

namespace Sys2Proof.Machine

/-- R102: the step that feeds a command byte. -/
def State.frameStart (s : State) (b : Byte) : State :=
  { s with parser := Parser.frameStart lenTable b }.emit (startOutputs lenTable b)

/-- R103: the step that feeds a payload byte that is not the last. -/
def State.payloadByte (s : State) (b : Byte) : State :=
  { s with parser := s.parser.payloadAppend b }.emit Outputs.quiet

/-- R104: the step that feeds the last payload byte decodes the whole frame and executes it. In a state that meets R25
the frame always decodes (`decode_completed` in Laws/Feed.lean). -/
def execCompleted (s : State) (b : Byte) : Host.Outcome State Fault Refusal :=
  match decode (s.parser.fetched ++ [b]) with
  | .ok (i, _) => exec i s
  | .error _ => .refused .unreachableState

/-- R100, `feed(b)`: exactly one of the four transitions R101 to R104. Before the first reset (R182) and in a register
pattern that breaks R25 (D17) the spec gives it no meaning. -/
def feedByte (s : State) (b : Byte) : Host.Outcome State Fault Refusal :=
  if s.wasReset = false then .refused .notYetReset
  else if s.parser.inv lenTable = false then .refused .unreachableState
  else match s.parser.mode with
    | .waitForStart => if b = 0x00 then exec .idle s else .next (s.frameStart b)
    | .inMessage => if s.parser.lastByteDue then execCompleted s b else .next (s.payloadByte b)

/-- One clock cycle with `c` on the input ports: `rst` has priority over `in_valid` (R166, R180); without either the
block holds (R110). -/
def cycle (s : State) (c : InputCycle) : Host.Outcome State Fault Refusal :=
  if c.rst then .next s.resetCycle
  else if c.inValid then feedByte s c.inByte
  else .next s.idleCycle

/-- The next clock cycle: what the outside presents next, or nothing (log 2). -/
def nextCycle (s : State) : Host.Outcome State Fault Refusal :=
  match s.input with
  | [] => .next s.idleCycle
  | c :: rest => cycle { s with input := rest } c

/-- The input ports in a cycle that presents the byte `b` (R110). -/
def InputCycle.feed (b : Byte) : InputCycle := { rst := false, inValid := true, inByte := b }

/-- The input ports in a cycle that presents no byte (R110). -/
def InputCycle.gap (b : Byte) : InputCycle := { rst := false, inValid := false, inByte := b }

/-- Place the frame that stands first in `bytes` so that the next step executes it: the registers as after its earlier
bytes, its last byte next on the input ports (log 5). -/
def placeFrame (s : State) : List Byte → State
  | [] => s
  | c :: rest =>
    if c = 0x00 then
      { s with wasReset := true, parser := Parser.reset, input := InputCycle.feed c :: s.input }
    else
      { s with
        wasReset := true
        parser := (rest.take (LEN c - 1)).foldl Parser.payloadAppend (Parser.frameStart lenTable c)
        input := InputCycle.feed (rest.getD (LEN c - 1) 0x00) :: s.input }

/-- The Frame Assembler over ANY length table (D15, U2), written straight from R100 to R104, with no decoding of frames.
None where the spec gives no behaviour: an ill-formed table (D16), a register pattern that breaks R25 (D17). The
block itself is `feedByte`; the two agree at `lenTable`. -/
def feedWith (T : LengthTable) (p : Parser) (b : Byte) : Option (Parser × Outputs) :=
  if tableLegal T && p.inv T then
    match p.mode with
    | .waitForStart =>
      if b = 0x00 then some (p, Outputs.quiet) else some (Parser.frameStart T b, startOutputs T b)
    | .inMessage =>
      if p.lastByteDue then some (Parser.reset, completionOutputs (p.completed b))
      else some (p.payloadAppend b, Outputs.quiet)
  else none

end Sys2Proof.Machine
end

