-- ==== Sys2Proof/Machine/Step.lean ====
section
/-! DEFINITION. The step: one clock cycle of the block (D1, R110). -/

namespace Sys2Proof.Machine

/-- One clock cycle. -/
def step (s : State) : Host.Outcome State Fault Refusal := nextCycle s

/-- `s` with the frame of a table word placed so that the next step executes it (log 5, log 6). -/
def State.withFetchWord (s : State) (nbits w : Nat) : State := placeFrame s (tableWordBytes nbits w)

end Sys2Proof.Machine
end

