-- ==== Sys2Proof/Machine/Registers.lean ====
section
/-! DEFINITION. The register view of ParserState (R21, R24, D6, D7): the bit that holds `mode`, and the three byte
registers and the 2-bit count that hold the payload. A view computed from State, not stored beside it. -/

namespace Sys2Proof.Machine

/-- `MODE_ENC` (R6, R21, D6). -/
def Mode.bit : Mode → BitVec 1
  | .waitForStart => 0
  | .inMessage => 1

/-- The payload buffer as registers (R24, D7). -/
structure PayloadBuffer where
  count : BitVec 2
  buf0 : Byte
  buf1 : Byte
  buf2 : Byte
  deriving DecidableEq, Repr

/-- The registers that hold a payload: bytes at or above `count` are 0x00 (R24). -/
def payloadBuffer (payload : List Byte) : PayloadBuffer :=
  { count := BitVec.ofNat 2 payload.length
    buf0 := payload.getD 0 0x00, buf1 := payload.getD 1 0x00, buf2 := payload.getD 2 0x00 }

/-- The hardware view of R51: `buf[n] <- b`, `count <- n + 1`. A full buffer is never written. -/
def PayloadBuffer.append (r : PayloadBuffer) (b : Byte) : PayloadBuffer :=
  if r.count = 0 then { r with count := 1, buf0 := b }
  else if r.count = 1 then { r with count := 2, buf1 := b }
  else if r.count = 2 then { r with count := 3, buf2 := b }
  else r

/-- Clearing (R51): `count` 0 and all three bytes 0x00. -/
def PayloadBuffer.cleared : PayloadBuffer := { count := 0, buf0 := 0x00, buf1 := 0x00, buf2 := 0x00 }

end Sys2Proof.Machine
end

