-- ==== Sys2Proof/Safety.lean ====
section
/-! DEFINITION. What claims are stated in: the invariant of reachable states, being at a frame boundary, runs of several
steps, and the rules of the output ports. -/

namespace Sys2Proof.Machine

/-- The invariant of every reachable state: the block has been reset (R182) and its registers meet R25. -/
abbrev State.Inv (s : State) : Prop := s.wasReset = true ∧ s.parser.inv lenTable = true

/-- The block stands at a frame boundary: state (W) of R25. -/
abbrev State.AtBoundary (s : State) : Prop := s.wasReset = true ∧ s.parser = Parser.reset

/-- `n` steps, stopping at the first that is not a next state. -/
def steps : Nat → State → Host.Outcome State Fault Refusal
  | 0, s => .next s
  | n + 1, s =>
    match step s with
    | .next t => steps n t
    | .fault r => .fault r
    | .refused r => .refused r

/-- The cycles that present these bytes, one a cycle (R110). -/
def feeds (bytes : List Byte) : List InputCycle := bytes.map InputCycle.feed

/-- The Messages output so far, in order (R60). -/
def State.messages (s : State) : List Message := s.results.filterMap Outputs.message

/-- The Readings output so far, in order (R60). -/
def State.readingsOut (s : State) : List Reading := s.results.filterMap Outputs.reading

/-- The Message a frame produces (R104); the idle byte produces none (R101). -/
def messageOf : Instr → Option Message
  | .idle => none
  | .depth p0 p1 p2 => some { command := 0x01, payload := [p0, p1, p2] }
  | .awa p0 p1 => some { command := 0x20, payload := [p0, p1] }
  | .aws p0 p1 => some { command := 0x21, payload := [p0, p1] }
  | .stw p0 p1 => some { command := 0x22, payload := [p0, p1] }
  | .wtemp p0 p1 => some { command := 0x23, payload := [p0, p1] }
  | .log p0 p1 => some { command := 0x26, payload := [p0, p1] }
  | .hdg p0 => some { command := 0x30, payload := [p0] }
  | .unk cmd p0 p1 => some { command := cmd, payload := [p0, p1] }

/-- The rules of the output ports (R38, R39, R166, R143): what holds of them in every cycle. -/
structure Ports.Legal (o : Ports) : Prop where
  message_off : o.msgValid = false → o.msgCmd = 0x00 ∧ o.msgLen = 0 ∧ o.msgP0 = 0x00 ∧ o.msgP1 = 0x00 ∧ o.msgP2 = 0x00
  message_on : o.msgValid = true → o.msgCmd ≠ 0x00 ∧ o.msgLen.toNat = LEN o.msgCmd
  message_fill : (o.msgLen.toNat ≤ 1 → o.msgP1 = 0x00) ∧ (o.msgLen.toNat ≤ 2 → o.msgP2 = 0x00)
  reading_off : o.rdValid = false → o.rdCmd = 0x00 ∧ o.rdValue = 0
  reading_on : o.rdValid = true → o.msgValid = true ∧ o.rdCmd = o.msgCmd
  reading_when : o.rdValid = true ↔ o.msgValid = true ∧ o.msgCmd ∈ ([0x01, 0x20, 0x21, 0x22, 0x23] : List Byte)
  diag_alone : o.diagUnknown = true → o.msgValid = false

end Sys2Proof.Machine
end

