-- ==== Sys2Proof/Certificates/Slice0/Obligations.lean ====
section
/-! DEFINITION. The statements for the provers. Each docstring names the rule of spec/ it formalises. -/

open Sys2Proof Sys2Proof.Machine

/-! ## Encoding -/

/-- R70, R71, R81: every well-formed frame, at every operand value and whatever follows it, decodes to itself. -/
def Obligations.DecodeOfEncodeIsTheFrame : Prop :=
  ∀ (i : Instr) (rest : List Byte), i.wellFormed = true → decode (encode i ++ rest) = .ok (i, rest)

/-- R70, R75: whatever decodes is a well-formed frame, and its bytes are the bytes decoded. -/
def Obligations.EncodeOfDecodeIsTheBytes : Prop :=
  ∀ (bytes : List Byte) (i : Instr) (rest : List Byte), decode bytes = .ok (i, rest) →
    i.wellFormed = true ∧ encode i ++ rest = bytes

/-- R75, R77: no byte sequence is illegal. Decoding a command byte and what follows fails exactly while the table's
payload length has not been reached, and the failure names the command. -/
def Obligations.DecodeFailsOnlyOnMissingBytes : Prop :=
  (∀ (cmd : Byte) (rest : List Byte), cmd ≠ 0x00 → rest.length < LEN cmd →
    decode (cmd :: rest) = .error (.truncated cmd)) ∧
  (∀ (cmd : Byte) (rest : List Byte), cmd ≠ 0x00 → LEN cmd ≤ rest.length →
    ∃ i, decode (cmd :: rest) = .ok (i, rest.drop (LEN cmd))) ∧
  (∀ rest : List Byte, decode (0x00 :: rest) = .ok (.idle, rest))

/-- R71, R81, the numbering of D20 (log 6): a frame written as one number reads back as the frame. -/
def Obligations.FrameWordReadsBack : Prop :=
  ∀ i : Instr, i.wellFormed = true → decodeTableWord (8 * (encode i).length) (frameWord i) = some i

/-- R83: the worked encodings, each word written out from the table of R72. -/
def Obligations.WorkedEncodingsDecode : Prop :=
  decode [0x01, 0x00, 0x0A, 0x00] = .ok (.depth 0x00 0x0A 0x00, []) ∧
  frameWord (.depth 0x00 0x0A 0x00) = 0x01000A00 ∧
  decode [0x20, 0x5A, 0x00] = .ok (.awa 0x5A 0x00, []) ∧
  decode [0x21, 0x00, 0x64] = .ok (.aws 0x00 0x64, []) ∧
  decode [0x22, 0x00, 0x64] = .ok (.stw 0x00 0x64, []) ∧
  decode [0x23, 0x00, 0xC8] = .ok (.wtemp 0x00 0xC8, []) ∧
  decode [0x26, 0x00, 0x00] = .ok (.log 0x00 0x00, []) ∧
  decode [0x30, 0x0E] = .ok (.hdg 0x0E, []) ∧
  decode [0x99, 0x01, 0x02] = .ok (.unk 0x99 0x01 0x02, [])

/-! ## The Command Length Table -/

/-- R53, R59, R72, R73, R29: `KNOWN` and `LEN` of each of the 256 bytes, every length legal, and the unknown commands
are the bytes an `UNK` frame may have. -/
def Obligations.LengthTableIsTheSpecs : Prop :=
  ∀ c : Byte,
    (KNOWN c = true ↔ c ∈ ([0x01, 0x20, 0x21, 0x22, 0x23, 0x26, 0x30] : List Byte)) ∧
    LEN c = (if c = 0x01 then 3 else if c = 0x30 then 1 else 2) ∧
    (∀ p0 p1 : Byte, (Instr.unk c p0 p1).wellFormed = true ↔ c ≠ 0x00 ∧ KNOWN c = false)

/-! ## Reset and cycles without a byte -/

/-- R35: the reset value of every register, in both views (decisions D4, D6, D7). -/
def Obligations.ResetValues : Prop :=
  State.reset.parser.mode = .waitForStart ∧ State.reset.parser.mode.bit = 0 ∧
  State.reset.parser.currentCommand = 0x00 ∧ State.reset.parser.expectedLength = 0x00 ∧
  State.reset.parser.accumulatedPayload = [] ∧
  payloadBuffer State.reset.parser.accumulatedPayload = PayloadBuffer.cleared ∧
  State.reset.ports = Ports.zero

/-- R180, R181 (decision D3): a cycle with `rst` = 1, from every state, whatever stands on the other input ports,
leaves the reset state with the cycles still to come; a partial frame and the byte presented are lost. -/
def Obligations.ResetCycleFromEveryState : Prop :=
  ∀ (s : State) (c : InputCycle) (rest : List InputCycle), s.input = c :: rest → c.rst = true →
    step s = .next { parser := { mode := .waitForStart, currentCommand := 0x00, expectedLength := 0x00
                                 accumulatedPayload := [] }
                     wasReset := true, input := rest, ports := Ports.zero, results := [] }

/-- R110, R41 (decisions D1, D2, D8): a cycle with neither `rst` nor `in_valid`, or with nothing presented at all (the
model's choice, log 2), holds every register and drives all outputs 0, in every state. -/
def Obligations.CycleWithoutByteHolds : Prop :=
  (∀ (s : State) (c : InputCycle) (rest : List InputCycle), s.input = c :: rest → c.rst = false → c.inValid = false →
    step s = .next { s with input := rest, ports := Ports.zero }) ∧
  (∀ s : State, s.input = [] → step s = .next { s with ports := Ports.zero })

/-- R106: no timeout. Any number of cycles without a byte leaves ParserState and the results as they were, from every
state. -/
def Obligations.NoTimeout : Prop :=
  ∀ (n : Nat) (s : State), (∀ c ∈ s.input.take n, c.rst = false ∧ c.inValid = false) →
    ∃ t, steps n s = .next t ∧ t.parser = s.parser ∧ t.wasReset = s.wasReset ∧ t.results = s.results ∧
      t.input = s.input.drop n

/-- R106: only frame completion and reset leave IN_MESSAGE. -/
def Obligations.OnlyCompletionOrResetLeavesTheFrame : Prop :=
  ∀ s t : State, step s = .next t → s.parser.mode = .inMessage → t.parser.mode = .waitForStart →
    ∃ c rest, s.input = c :: rest ∧ (c.rst = true ∨ (c.inValid = true ∧ s.parser.lastByteDue = true))

/-! ## The four transitions of feed -/

/-- First clause, R101: 0x00 fed in WAIT_FOR_START is consumed; nothing is written and nothing is output. Second clause,
the model's choice (DESIGN CHOICE, log 1) and no rule of the spec: `exec` of `IDLE` has that next state from EVERY state,
although IDLE exists only in WAIT_FOR_START (R107). -/
def Obligations.IdleByteIsIgnored : Prop :=
  (∀ (s : State) (rest : List InputCycle), s.Inv → s.parser.mode = .waitForStart →
    s.input = InputCycle.feed 0x00 :: rest →
    step s = .next { s with input := rest, ports := Ports.zero, results := s.results ++ [Outputs.quiet] }) ∧
  (∀ s : State, exec .idle s = .next { s with ports := Ports.zero, results := s.results ++ [Outputs.quiet] })

/-- R102: every non-zero byte fed in WAIT_FOR_START starts a frame: all four registers, and the diagnostic exactly when
the table does not list the byte. -/
def Obligations.FrameStartTransition : Prop :=
  ∀ (s : State) (b : Byte) (rest : List InputCycle), s.Inv → s.parser.mode = .waitForStart → b ≠ 0x00 →
    s.input = InputCycle.feed b :: rest →
    ∃ t, step s = .next t ∧ t.input = rest ∧ t.wasReset = true ∧
      t.parser.mode = .inMessage ∧ t.parser.currentCommand = b ∧ t.parser.expectedLength.toNat = LEN b ∧
      t.parser.accumulatedPayload = [] ∧ t.ports = { Ports.zero with diagUnknown := !KNOWN b } ∧
      t.results = s.results ++
        [{ message := none, reading := none, diagUnknown := if KNOWN b = true then none else some b }]

/-- R103: a payload byte that is not the last is appended; nothing else is written and nothing is output. -/
def Obligations.PayloadByteTransition : Prop :=
  ∀ (s : State) (b : Byte) (rest : List InputCycle), s.Inv → s.parser.mode = .inMessage →
    s.parser.accumulatedPayload.length + 1 < s.parser.expectedLength.toNat →
    s.input = InputCycle.feed b :: rest →
    step s = .next { s with
      parser := { s.parser with accumulatedPayload := s.parser.accumulatedPayload ++ [b] }
      input := rest, ports := Ports.zero, results := s.results ++ [Outputs.quiet] }

/-- R104 (decision D5, D8, D9): the last payload byte outputs the Message and returns all four registers to their reset
values. -/
def Obligations.FrameCompletionTransition : Prop :=
  ∀ (s : State) (b : Byte) (rest : List InputCycle), s.Inv → s.parser.mode = .inMessage →
    s.parser.accumulatedPayload.length + 1 = s.parser.expectedLength.toNat →
    s.input = InputCycle.feed b :: rest →
    ∃ t, step s = .next t ∧ t.parser = Parser.reset ∧ t.wasReset = true ∧ t.input = rest ∧
      t.ports.msgValid = true ∧ t.ports.msgCmd = s.parser.currentCommand ∧
      t.ports.msgLen.toNat = s.parser.expectedLength.toNat ∧
      t.ports.msgP0 = (s.parser.accumulatedPayload ++ [b]).getD 0 0x00 ∧
      t.ports.msgP1 = (s.parser.accumulatedPayload ++ [b]).getD 1 0x00 ∧
      t.ports.msgP2 = (s.parser.accumulatedPayload ++ [b]).getD 2 0x00 ∧ t.ports.diagUnknown = false ∧
      ∃ o : Outputs, t.results = s.results ++ [o] ∧ o.diagUnknown = none ∧
        o.message = some { command := s.parser.currentCommand, payload := s.parser.accumulatedPayload ++ [b] }

/-- R107: inside a frame 0x00 is payload, appended or completing the frame as any other byte is. -/
def Obligations.ZeroInsideFrameIsPayload : Prop :=
  ∀ (s : State) (rest : List InputCycle), s.Inv → s.parser.mode = .inMessage →
    s.input = InputCycle.feed 0x00 :: rest →
    ∃ t, step s = .next t ∧
      (s.parser.accumulatedPayload.length + 1 < s.parser.expectedLength.toNat →
        t.parser.mode = .inMessage ∧ t.parser.accumulatedPayload = s.parser.accumulatedPayload ++ [0x00]) ∧
      (s.parser.accumulatedPayload.length + 1 = s.parser.expectedLength.toNat →
        t.parser.mode = .waitForStart ∧ t.messages = s.messages ++
          [{ command := s.parser.currentCommand, payload := s.parser.accumulatedPayload ++ [0x00] }])

/-- R100, R104 and log 1: when the frame's bytes fed so far and the byte presented decode to an instruction, the step is
that instruction's meaning, with the cycle consumed and nothing else around it. -/
def Obligations.StepRunsTheDecodedInstruction : Prop :=
  ∀ (s : State) (b : Byte) (rest : List InputCycle) (i : Instr) (more : List Byte), s.Inv →
    s.input = InputCycle.feed b :: rest → decode (s.parser.fetched ++ [b]) = .ok (i, more) →
    step s = exec i { s with input := rest }

/-- Log 5, log 6 (the model's choice): a table word placed for fetching is executed by the very next step. -/
def Obligations.PlacedFrameRunsNext : Prop :=
  ∀ (s : State) (i : Instr), i.wellFormed = true →
    ∃ u : State, step (s.withFetchWord (8 * (encode i).length) (frameWord i)) = exec i u ∧
      u.input = s.input ∧ u.results = s.results ∧ u.ports = s.ports

/-! ## The meanings of the nine instructions -/

/-- R104, R132: the whole next state of `DEPTH` when its last byte is fed. That `exec` has it from EVERY state, and not only
where the registers hold the frame's earlier bytes, is the model's choice (DESIGN CHOICE, log 1). -/
def Obligations.ExecDepthCompletes : Prop :=
  ∀ (p0 p1 p2 : Byte) (s : State), exec (.depth p0 p1 p2) s = .next { s with
    parser := Parser.reset
    ports := { msgValid := true, msgCmd := 0x01, msgLen := 3, msgP0 := p0, msgP1 := p1, msgP2 := p2
               rdValid := true, rdCmd := 0x01, diagUnknown := false
               rdValue := BitVec.ofInt 32 (((p0.toNat : Int) * 256 + p1.toNat) * 3048) }
    results := s.results ++ [{ message := some { command := 0x01, payload := [p0, p1, p2] }, diagUnknown := none
                               reading := some { cmd := 0x01, mantissa := ((p0.toNat : Int) * 256 + p1.toNat) * 3048 } }] }

/-- R104, R133: the whole next state of `AWA` when its last byte is fed. That `exec` has it from EVERY state, and not only
where the registers hold the frame's earlier bytes, is the model's choice (DESIGN CHOICE, log 1). -/
def Obligations.ExecAwaCompletes : Prop :=
  ∀ (p0 p1 : Byte) (s : State), exec (.awa p0 p1) s = .next { s with
    parser := Parser.reset
    ports := { msgValid := true, msgCmd := 0x20, msgLen := 2, msgP0 := p0, msgP1 := p1, msgP2 := 0x00
               rdValid := true, rdCmd := 0x20, diagUnknown := false
               rdValue := BitVec.ofInt 32 (2 * (p0.toNat : Int) - 180) }
    results := s.results ++ [{ message := some { command := 0x20, payload := [p0, p1] }, diagUnknown := none
                               reading := some { cmd := 0x20, mantissa := 2 * (p0.toNat : Int) - 180 } }] }

/-- R104, R134: the whole next state of `AWS` when its last byte is fed. That `exec` has it from EVERY state, and not only
where the registers hold the frame's earlier bytes, is the model's choice (DESIGN CHOICE, log 1). -/
def Obligations.ExecAwsCompletes : Prop :=
  ∀ (p0 p1 : Byte) (s : State), exec (.aws p0 p1) s = .next { s with
    parser := Parser.reset
    ports := { msgValid := true, msgCmd := 0x21, msgLen := 2, msgP0 := p0, msgP1 := p1, msgP2 := 0x00
               rdValid := true, rdCmd := 0x21, diagUnknown := false
               rdValue := BitVec.ofInt 32 ((p0.toNat : Int) * 256 + p1.toNat) }
    results := s.results ++ [{ message := some { command := 0x21, payload := [p0, p1] }, diagUnknown := none
                               reading := some { cmd := 0x21, mantissa := (p0.toNat : Int) * 256 + p1.toNat } }] }

/-- R104, R135: the whole next state of `STW` when its last byte is fed; bit 7 of `p0` does not enter the Reading. That
`exec` has it from EVERY state, and not only where the registers hold the frame's earlier bytes, is the model's choice
(DESIGN CHOICE, log 1). -/
def Obligations.ExecStwCompletes : Prop :=
  ∀ (p0 p1 : Byte) (s : State), exec (.stw p0 p1) s = .next { s with
    parser := Parser.reset
    ports := { msgValid := true, msgCmd := 0x22, msgLen := 2, msgP0 := p0, msgP1 := p1, msgP2 := 0x00
               rdValid := true, rdCmd := 0x22, diagUnknown := false
               rdValue := BitVec.ofInt 32 (((p0.toNat % 128 : Nat) : Int) * 256 + p1.toNat) }
    results := s.results ++ [{ message := some { command := 0x22, payload := [p0, p1] }, diagUnknown := none
                               reading := some { cmd := 0x22, mantissa := ((p0.toNat % 128 : Nat) : Int) * 256 + p1.toNat } }] }

/-- R104, R136: the whole next state of `WTEMP` when its last byte is fed. That `exec` has it from EVERY state, and not only
where the registers hold the frame's earlier bytes, is the model's choice (DESIGN CHOICE, log 1). -/
def Obligations.ExecWtempCompletes : Prop :=
  ∀ (p0 p1 : Byte) (s : State), exec (.wtemp p0 p1) s = .next { s with
    parser := Parser.reset
    ports := { msgValid := true, msgCmd := 0x23, msgLen := 2, msgP0 := p0, msgP1 := p1, msgP2 := 0x00
               rdValid := true, rdCmd := 0x23, diagUnknown := false
               rdValue := BitVec.ofInt 32 ((p0.toNat : Int) * 256 + p1.toNat - 100) }
    results := s.results ++ [{ message := some { command := 0x23, payload := [p0, p1] }, diagUnknown := none
                               reading := some { cmd := 0x23, mantissa := (p0.toNat : Int) * 256 + p1.toNat - 100 } }] }

/-- R104, R105, R137, R138, R142: the whole next state of the three frames that give a Message and no Reading, `LOG`,
`HDG` and `UNK` of any unknown command, when the last byte is fed. That `exec` has it from EVERY state, and not only where
the registers hold the frame's earlier bytes, is the model's choice (DESIGN CHOICE, log 1). -/
def Obligations.ExecLogHdgUnkComplete : Prop :=
  (∀ (p0 p1 : Byte) (s : State), exec (.log p0 p1) s = .next { s with
    parser := Parser.reset
    ports := { msgValid := true, msgCmd := 0x26, msgLen := 2, msgP0 := p0, msgP1 := p1, msgP2 := 0x00
               rdValid := false, rdCmd := 0x00, rdValue := 0, diagUnknown := false }
    results := s.results ++ [{ message := some { command := 0x26, payload := [p0, p1] }, reading := none
                               diagUnknown := none }] }) ∧
  (∀ (p0 : Byte) (s : State), exec (.hdg p0) s = .next { s with
    parser := Parser.reset
    ports := { msgValid := true, msgCmd := 0x30, msgLen := 1, msgP0 := p0, msgP1 := 0x00, msgP2 := 0x00
               rdValid := false, rdCmd := 0x00, rdValue := 0, diagUnknown := false }
    results := s.results ++ [{ message := some { command := 0x30, payload := [p0] }, reading := none
                               diagUnknown := none }] }) ∧
  (∀ (cmd p0 p1 : Byte) (s : State), (Instr.unk cmd p0 p1).wellFormed = true → exec (.unk cmd p0 p1) s = .next { s with
    parser := Parser.reset
    ports := { msgValid := true, msgCmd := cmd, msgLen := 2, msgP0 := p0, msgP1 := p1, msgP2 := 0x00
               rdValid := false, rdCmd := 0x00, rdValue := 0, diagUnknown := false }
    results := s.results ++ [{ message := some { command := cmd, payload := [p0, p1] }, reading := none
                               diagUnknown := none }] })

/-- What every instruction leaves unchanged: a statement about `exec` in EVERY state, which is the model's choice (DESIGN
CHOICE, log 1), IDLE inside a frame included. R101, R104 and R109 say it of the step that ends the frame (R101: of 0x00 in
WAIT_FOR_START); at every other state it is no rule of the spec. Each of the nine gives a next state; the coming input cycles and
the start-up condition stay; `IDLE` writes no register and every frame returns all four to their reset values (D5); the outputs recorded so far stay and exactly one entry is added,
whose Message is the frame; the ports show that entry. -/
def Obligations.EveryInstructionFrame : Prop :=
  ∀ (i : Instr) (s : State), ∃ t, exec i s = .next t ∧
    t.input = s.input ∧ t.wasReset = s.wasReset ∧ (i = .idle → t.parser = s.parser) ∧
    (i ≠ .idle → t.parser = Parser.reset) ∧
    ∃ o : Outputs, t.results = s.results ++ [o] ∧ t.ports = o.ports ∧ o.message = messageOf i ∧ o.diagUnknown = none

/-! ## The decoders -/

/-- R132, `DEPTH`, for any Message; the minimum is that of decision D12, the mantissa that of D13. -/
def Obligations.DepthDecoder : Prop :=
  (∀ m : Message, depthDecoder.onMessage m =
    if m.command ≠ 0x01 then .mismatch
    else if m.payload.length < 2 then .undersized
    else .emitted { cmd := 0x01, mantissa := ((m.p 0).toNat * 256 + (m.p 1).toNat : Int) * 3048 }) ∧
  (∀ (m : Message) (r : Reading), depthDecoder.onMessage m = .emitted r →
    r.value = ((((m.p 0).toNat <<< 8) ||| (m.p 1).toNat : Nat) : Rat) * (1 / 10) * (3048 / 10000)) ∧
  LEN 0x01 = 3

/-- R133, `AWA`, for any Message. -/
def Obligations.AwaDecoder : Prop :=
  (∀ m : Message, awaDecoder.onMessage m =
    if m.command ≠ 0x20 then .mismatch
    else if m.payload.length < 1 then .undersized
    else .emitted { cmd := 0x20, mantissa := 2 * ((m.p 0).toNat : Int) - 180 }) ∧
  (∀ (m : Message) (r : Reading), awaDecoder.onMessage m = .emitted r →
    r.value = ((m.p 0).toNat : Rat) * 2 - 180 ∧ -180 ≤ r.mantissa ∧ r.mantissa ≤ 330 ∧ r.mantissa % 2 = 0) ∧
  LEN 0x20 = 2

/-- R134, `AWS`, for any Message. -/
def Obligations.AwsDecoder : Prop :=
  (∀ m : Message, awsDecoder.onMessage m =
    if m.command ≠ 0x21 then .mismatch
    else if m.payload.length < 2 then .undersized
    else .emitted { cmd := 0x21, mantissa := ((m.p 0).toNat : Int) * 256 + (m.p 1).toNat }) ∧
  (∀ (m : Message) (r : Reading), awsDecoder.onMessage m = .emitted r →
    r.value = ((((m.p 0).toNat <<< 8) ||| (m.p 1).toNat : Nat) : Rat) * (1 / 10)) ∧
  LEN 0x21 = 2

/-- R135, `STW`, for any Message: bit 7 of `p0` is discarded. -/
def Obligations.StwDecoder : Prop :=
  (∀ m : Message, stwDecoder.onMessage m =
    if m.command ≠ 0x22 then .mismatch
    else if m.payload.length < 2 then .undersized
    else .emitted { cmd := 0x22, mantissa := (((m.p 0).toNat % 128 : Nat) : Int) * 256 + (m.p 1).toNat }) ∧
  (∀ (m : Message) (r : Reading), stwDecoder.onMessage m = .emitted r →
    r.value = (((((m.p 0).toNat &&& 0x7F) <<< 8) ||| (m.p 1).toNat : Nat) : Rat) * (1 / 10) ∧ r.mantissa ≤ 32767) ∧
  LEN 0x22 = 2

/-- R136, `WTEMP`, for any Message. -/
def Obligations.WtempDecoder : Prop :=
  (∀ m : Message, wtempDecoder.onMessage m =
    if m.command ≠ 0x23 then .mismatch
    else if m.payload.length < 2 then .undersized
    else .emitted { cmd := 0x23, mantissa := ((m.p 0).toNat : Int) * 256 + (m.p 1).toNat - 100 }) ∧
  (∀ (m : Message) (r : Reading), wtempDecoder.onMessage m = .emitted r →
    r.value = ((((m.p 0).toNat <<< 8) ||| (m.p 1).toNat : Nat) : Rat) * (1 / 10) - 10) ∧
  LEN 0x23 = 2

/-- R137, `LOG`, for any Message: it needs three payload bytes and a framed one has two. -/
def Obligations.LogDecoder : Prop :=
  (∀ m : Message, logDecoder.onMessage m =
    if m.command ≠ 0x26 then .mismatch
    else if m.payload.length < 3 then .undersized
    else .emitted { cmd := 0x26
                    mantissa := ((m.p 0).toNat : Int) * 65536 + (m.p 1).toNat * 256 + (m.p 2).toNat }) ∧
  (∀ (m : Message) (r : Reading), logDecoder.onMessage m = .emitted r →
    r.value = ((((m.p 0).toNat <<< 16) ||| ((m.p 1).toNat <<< 8) ||| (m.p 2).toNat : Nat) : Rat) * (1 / 10)) ∧
  (∀ m : Message, m.command = 0x26 → m.payload.length = LEN 0x26 → logDecoder.onMessage m = .undersized)

/-- R138, `HDG`, for any Message: it needs two payload bytes and a framed one has one. -/
def Obligations.HdgDecoder : Prop :=
  (∀ m : Message, hdgDecoder.onMessage m =
    if m.command ≠ 0x30 then .mismatch
    else if m.payload.length < 2 then .undersized
    else .emitted { cmd := 0x30, mantissa := ((m.p 0).toNat : Int) * 256 + (m.p 1).toNat }) ∧
  (∀ (m : Message) (r : Reading), hdgDecoder.onMessage m = .emitted r →
    r.value = ((((m.p 0).toNat <<< 8) ||| (m.p 1).toNat : Nat) : Rat) * (1 / 10)) ∧
  (∀ m : Message, m.command = 0x30 → m.payload.length = LEN 0x30 → hdgDecoder.onMessage m = .undersized)

/-- R124: for any Message, framed or not, at most one decoder emits, and none for a command no decoder has. -/
def Obligations.AtMostOneReading : Prop :=
  ∀ m : Message, (readings m).length ≤ 1 ∧ (KNOWN m.command = false → readings m = [])

/-- R143, R142: a framed Message gives exactly one Reading, of its own command, for the five commands of R143, and none
for any other. -/
def Obligations.FramedReadings : Prop :=
  ∀ m : Message, m.command ≠ 0x00 → m.payload.length = LEN m.command →
    if m.command ∈ ([0x01, 0x20, 0x21, 0x22, 0x23] : List Byte) then ∃ r, readings m = [r] ∧ r.cmd = m.command
    else readings m = []

/-- R139: every mantissa lies in the stated range, so the 32-bit port carries it exactly. -/
def Obligations.MantissaFitsThePort : Prop :=
  ∀ (m : Message) (r : Reading), r ∈ readings m →
    -180 ≤ r.mantissa ∧ r.mantissa ≤ 199750680 ∧ (BitVec.ofInt 32 r.mantissa).toInt = r.mantissa

/-- R130, R141 (decision D12): a decoder's result does not depend on payload bytes at or beyond its minimum, and a
payload that reaches the minimum is never refused. -/
def Obligations.BytesBeyondTheMinimumAreIgnored : Prop :=
  ∀ d ∈ registry, ∀ (cmd : Byte) (payload extra extra' : List Byte), payload.length = d.minLen →
    d.onMessage { command := cmd, payload := payload ++ extra } =
      d.onMessage { command := cmd, payload := payload ++ extra' } ∧
    (cmd = d.cmd → ∃ r, d.onMessage { command := cmd, payload := payload ++ extra } = .emitted r)

/-! ## The ports and the payload registers -/

/-- R38, R39, R143, R166: after every step, from every state, the output ports obey their rules. -/
def Obligations.PortsLegalAfterEveryStep : Prop :=
  ∀ s t : State, step s = .next t → t.ports.Legal

/-- R24, R51 (decision D7): the register view follows the append, keeps 0x00 above the count, and gives one bit pattern
to each payload the buffer can hold. -/
def Obligations.PayloadRegistersFollowTheAppend : Prop :=
  (∀ (p : Parser) (b : Byte), p.count < 3 →
    payloadBuffer (p.payloadAppend b).accumulatedPayload = (payloadBuffer p.accumulatedPayload).append b) ∧
  (∀ l l' : List Byte, l.length ≤ 3 → l'.length ≤ 3 → payloadBuffer l = payloadBuffer l' → l = l')

/-! ## The whole machine -/

/-- R25, R35: the invariant holds at reset. -/
def Obligations.ResetMeetsTheInvariant : Prop := State.reset.Inv

/-- R111: every step keeps the invariant of R25, from every state that meets it. -/
def Obligations.StepKeepsTheInvariant : Prop :=
  ∀ s t : State, s.Inv → step s = .next t → t.Inv

/-- R112: in every state that meets the invariant the step has a next state, whatever the outside presents. -/
def Obligations.StepIsTotal : Prop := ∀ s : State, s.Inv → ∃ t, step s = .next t

/-- R182, R25 (decisions D3, D17, log 4): a step is refused exactly when a byte is fed before the first reset or in a
register pattern that breaks R25, each under its own name; no step faults. -/
def Obligations.RefusedExactlyWhereTheSpecIsSilent : Prop :=
  (∀ s : State, step s = .refused .notYetReset ↔
    ∃ c rest, s.input = c :: rest ∧ c.rst = false ∧ c.inValid = true ∧ s.wasReset = false) ∧
  (∀ s : State, step s = .refused .unreachableState ↔
    ∃ c rest, s.input = c :: rest ∧ c.rst = false ∧ c.inValid = true ∧ s.wasReset = true ∧
      s.parser.inv lenTable = false) ∧
  (∀ (s : State) (r : Refusal), step s = .refused r → r = .notYetReset ∨ r = .unreachableState)

/-- R33, R41: two states with the same registers, start-up condition and input behave alike: the model's record of
outputs is read by nothing. -/
def Obligations.OutputRecordIsNeverRead : Prop :=
  ∀ s s' t : State, s'.parser = s.parser → s'.wasReset = s.wasReset → s'.input = s.input → step s = .next t →
    ∃ t', step s' = .next t' ∧ t'.parser = t.parser ∧ t'.wasReset = t.wasReset ∧ t'.input = t.input ∧
      t'.ports = t.ports ∧
      ((∃ c rest, s.input = c :: rest ∧ c.rst = true ∧ t.results = [] ∧ t'.results = []) ∨
       (∃ new, t.results = s.results ++ new ∧ t'.results = s'.results ++ new))

/-- R100 to R104: the block, which decodes whole frames and runs their meanings, is the Frame Assembler of the spec's
pseudocode at the canonical table. -/
def Obligations.StepRefinesTheFrameAssembler : Prop :=
  ∀ (s : State) (b : Byte) (rest : List InputCycle), s.Inv → s.input = InputCycle.feed b :: rest →
    ∃ p o, feedWith lenTable s.parser b = some (p, o) ∧
      step s = .next { s with parser := p, input := rest, ports := o.ports, results := s.results ++ [o] }

/-- R29, R31, R111, R112 over ANY legal table (decisions D15, D16): the assembler is total, keeps R25, and every Message
has its table length and a non-zero command; an illegal table or a pattern that breaks R25 has no behaviour. -/
def Obligations.AnyLegalTableFrames : Prop :=
  (∀ (T : LengthTable) (p : Parser) (b : Byte), tableLegal T = true → p.inv T = true →
    ∃ p' o, feedWith T p b = some (p', o) ∧ p'.inv T = true ∧
      (∀ m, o.message = some m → m.command ≠ 0x00 ∧ m.payload.length = tableLen T m.command)) ∧
  (∀ (T : LengthTable) (p : Parser) (b : Byte), tableLegal T = false ∨ p.inv T = false → feedWith T p b = none)

/-- R113(a), R108, R105: from the boundary, a command byte and its payload take one step a byte, output nothing but the
diagnostic of an unknown command before the last byte, then exactly one Message, and end at the boundary. -/
def Obligations.OneFrameOneMessage : Prop :=
  ∀ (s : State) (c : Byte) (payload : List Byte) (rest : List InputCycle), s.AtBoundary → c ≠ 0x00 →
    payload.length = LEN c → s.input = feeds (c :: payload) ++ rest →
    ∃ t, steps (1 + payload.length) s = .next t ∧ t.AtBoundary ∧ t.input = rest ∧
      t.results = s.results ++
        ({ message := none, reading := none, diagUnknown := if KNOWN c = true then none else some c } : Outputs) ::
          (List.replicate (payload.length - 1) Outputs.quiet ++
            [{ message := some { command := c, payload := payload }, diagUnknown := none
               reading := (readings { command := c, payload := payload }).head? }])

/-- R113(d), R60: from the boundary, any sequence of well-formed frames and idle bytes gives exactly one Message per frame
in order, the Readings in Message order, and ends at the boundary. -/
def Obligations.StreamOfFramesGivesItsMessages : Prop :=
  ∀ (is : List Instr) (s : State) (rest : List InputCycle), (∀ i ∈ is, i.wellFormed = true) → s.AtBoundary →
    s.input = feeds (is.flatMap encode) ++ rest →
    ∃ t, steps (is.flatMap encode).length s = .next t ∧ t.AtBoundary ∧ t.input = rest ∧
      t.messages = s.messages ++ is.filterMap messageOf ∧
      t.readingsOut = s.readingsOut ++ (is.filterMap messageOf).flatMap readings

/-- R110, R189 (decisions D1, D2): behaviour is a function of the sequence of fed bytes and resets alone. Running the
whole input and running it without its cycles that present nothing end in the same registers with the same results. -/
def Obligations.GapsNeverMatter : Prop :=
  ∀ s t : State, steps s.input.length s = .next t →
    ∃ t', steps (s.input.filter (fun c => c.rst || c.inValid)).length
        { s with input := s.input.filter (fun c => c.rst || c.inValid) } = .next t' ∧
      t'.parser = t.parser ∧ t'.wasReset = t.wasReset ∧ t'.results = t.results
end

