-- ==== Sys2Proof/Laws/State.lean ====
section
/-! SUPPORT. One lemma per field per update, so that no proof unfolds a record update. -/

namespace Sys2Proof.Machine

variable (s : State) (p : Parser) (T : LengthTable) (b : Byte) (o : Outputs) (m : Message)

@[simp] theorem payloadAppend_mode : (p.payloadAppend b).mode = p.mode := rfl
@[simp] theorem payloadAppend_currentCommand : (p.payloadAppend b).currentCommand = p.currentCommand := rfl
@[simp] theorem payloadAppend_expectedLength : (p.payloadAppend b).expectedLength = p.expectedLength := rfl
@[simp] theorem payloadAppend_accumulatedPayload :
    (p.payloadAppend b).accumulatedPayload = p.accumulatedPayload ++ [b] := rfl

@[simp] theorem parserFrameStart_mode : (Parser.frameStart T b).mode = .inMessage := rfl
@[simp] theorem parserFrameStart_currentCommand : (Parser.frameStart T b).currentCommand = b := rfl
@[simp] theorem parserFrameStart_expectedLength :
    (Parser.frameStart T b).expectedLength = BitVec.ofNat 8 (tableLen T b) := rfl
@[simp] theorem parserFrameStart_accumulatedPayload : (Parser.frameStart T b).accumulatedPayload = [] := rfl

@[simp] theorem parserReset_mode : Parser.reset.mode = .waitForStart := rfl
@[simp] theorem parserReset_currentCommand : Parser.reset.currentCommand = 0x00 := rfl
@[simp] theorem parserReset_expectedLength : Parser.reset.expectedLength = 0x00 := rfl
@[simp] theorem parserReset_accumulatedPayload : Parser.reset.accumulatedPayload = [] := rfl

@[simp] theorem emit_parser : (s.emit o).parser = s.parser := rfl
@[simp] theorem emit_wasReset : (s.emit o).wasReset = s.wasReset := rfl
@[simp] theorem emit_input : (s.emit o).input = s.input := rfl
@[simp] theorem emit_ports : (s.emit o).ports = o.ports := rfl
@[simp] theorem emit_results : (s.emit o).results = s.results ++ [o] := rfl

@[simp] theorem frameComplete_parser : (s.frameComplete m).parser = Parser.reset := rfl
@[simp] theorem frameComplete_wasReset : (s.frameComplete m).wasReset = s.wasReset := rfl
@[simp] theorem frameComplete_input : (s.frameComplete m).input = s.input := rfl
@[simp] theorem frameComplete_ports : (s.frameComplete m).ports = (completionOutputs m).ports := rfl
@[simp] theorem frameComplete_results : (s.frameComplete m).results = s.results ++ [completionOutputs m] := rfl

@[simp] theorem frameStart_parser : (s.frameStart b).parser = Parser.frameStart lenTable b := rfl
@[simp] theorem frameStart_wasReset : (s.frameStart b).wasReset = s.wasReset := rfl
@[simp] theorem frameStart_input : (s.frameStart b).input = s.input := rfl
@[simp] theorem frameStart_ports : (s.frameStart b).ports = (startOutputs lenTable b).ports := rfl
@[simp] theorem frameStart_results : (s.frameStart b).results = s.results ++ [startOutputs lenTable b] := rfl

@[simp] theorem payloadByte_parser : (s.payloadByte b).parser = s.parser.payloadAppend b := rfl
@[simp] theorem payloadByte_wasReset : (s.payloadByte b).wasReset = s.wasReset := rfl
@[simp] theorem payloadByte_input : (s.payloadByte b).input = s.input := rfl
@[simp] theorem payloadByte_ports : (s.payloadByte b).ports = Outputs.quiet.ports := rfl
@[simp] theorem payloadByte_results : (s.payloadByte b).results = s.results ++ [Outputs.quiet] := rfl

@[simp] theorem resetCycle_parser : s.resetCycle.parser = Parser.reset := rfl
@[simp] theorem resetCycle_wasReset : s.resetCycle.wasReset = true := rfl
@[simp] theorem resetCycle_input : s.resetCycle.input = s.input := rfl
@[simp] theorem resetCycle_ports : s.resetCycle.ports = Ports.zero := rfl
@[simp] theorem resetCycle_results : s.resetCycle.results = [] := rfl

@[simp] theorem idleCycle_parser : s.idleCycle.parser = s.parser := rfl
@[simp] theorem idleCycle_wasReset : s.idleCycle.wasReset = s.wasReset := rfl
@[simp] theorem idleCycle_input : s.idleCycle.input = s.input := rfl
@[simp] theorem idleCycle_ports : s.idleCycle.ports = Ports.zero := rfl
@[simp] theorem idleCycle_results : s.idleCycle.results = s.results := rfl

@[simp] theorem quiet_ports : Outputs.quiet.ports = Ports.zero := rfl

end Sys2Proof.Machine
end

