-- ==== Sys2Proof/Laws/Table.lean ====
section
/-! SUPPORT. What the Command Length Table answers, said once. -/

namespace Sys2Proof.Machine

/-- R72: the lengths, as one case distinction on the command byte. -/
theorem LEN_eq (c : Byte) : LEN c = if c = 0x01 then 3 else if c = 0x30 then 1 else 2 := by
  revert c; decide

/-- R53: the known commands. -/
theorem KNOWN_iff (c : Byte) : KNOWN c = true ↔ c ∈ ([0x01, 0x20, 0x21, 0x22, 0x23, 0x26, 0x30] : List Byte) := by
  revert c; decide

/-- Every length of the block's table is 1, 2 or 3 (R29, D16). -/
theorem LEN_bounds (c : Byte) : 1 ≤ LEN c ∧ LEN c ≤ 3 := by
  rw [LEN_eq]; split <;> [simp; split <;> simp]

/-- A legal table answers a legal length for every command (D16). -/
theorem legalLen_of_tableLegal {T : LengthTable} (h : tableLegal T = true) (c : Byte) :
    legalLen (tableLen T c) = true := by
  obtain ⟨rows, dflt⟩ := T
  simp only [tableLegal, Bool.and_eq_true, List.all_eq_true] at h
  obtain ⟨hd, hr⟩ := h
  simp only [tableLen, tableEntry]
  cases hl : rows.lookup c with
  | none => exact hd
  | some n =>
    obtain ⟨l₁, l₂, hrows, -⟩ := List.lookup_eq_some_iff.mp hl
    exact hr (c, n) (by simp [hrows])

/-- The canonical table is legal. -/
theorem lenTable_legal : tableLegal lenTable = true := by decide

end Sys2Proof.Machine
end

