-- ==== Sys2Proof/Laws/Feed.lean ====
section
/-! SUPPORT. What decoding a completed frame gives, and the inversion of the step: everything a step can do, said
once. -/

namespace Sys2Proof.Machine

/-- A command byte with exactly its table length of payload decodes to the frame whose meaning completes that Message
(R70, R104). -/
theorem decode_completed {c : Byte} {payload : List Byte} (hc : c ≠ 0x00) (hl : payload.length = LEN c) :
    ∃ i, decode (c :: payload) = .ok (i, []) ∧ i.wellFormed = true ∧ encode i = c :: payload ∧
      messageOf i = some { command := c, payload := payload } ∧
      ∀ s, exec i s = .next (s.frameComplete { command := c, payload := payload }) := by
  rw [LEN_eq] at hl
  by_cases h01 : c = 0x01
  · subst h01
    obtain ⟨p0, p1, p2, rfl⟩ := List.length_eq_three.mp (by simpa using hl)
    exact ⟨.depth p0 p1 p2, rfl, rfl, rfl, rfl, fun _ => rfl⟩
  by_cases h30 : c = 0x30
  · subst h30
    obtain ⟨p0, rfl⟩ := List.length_eq_one_iff.mp (by simpa using hl)
    exact ⟨.hdg p0, rfl, rfl, rfl, rfl, fun _ => rfl⟩
  rw [if_neg h01, if_neg h30] at hl
  obtain ⟨p0, p1, rfl⟩ := List.length_eq_two.mp hl
  by_cases h20 : c = 0x20
  · subst h20; exact ⟨.awa p0 p1, rfl, rfl, rfl, rfl, fun _ => rfl⟩
  by_cases h21 : c = 0x21
  · subst h21; exact ⟨.aws p0 p1, rfl, rfl, rfl, rfl, fun _ => rfl⟩
  by_cases h22 : c = 0x22
  · subst h22; exact ⟨.stw p0 p1, rfl, rfl, rfl, rfl, fun _ => rfl⟩
  by_cases h23 : c = 0x23
  · subst h23; exact ⟨.wtemp p0 p1, rfl, rfl, rfl, rfl, fun _ => rfl⟩
  by_cases h26 : c = 0x26
  · subst h26; exact ⟨.log p0 p1, rfl, rfl, rfl, rfl, fun _ => rfl⟩
  refine ⟨.unk c p0 p1, ?_, ?_, rfl, rfl, fun _ => rfl⟩
  · simp only [decode, decodeFrame, if_neg hc, if_neg h01, if_neg h20, if_neg h21, if_neg h22, if_neg h23,
      if_neg h26, if_neg h30]
    rfl
  · simpa [Instr.wellFormed, notUnknown] using ⟨hc, h01, h20, h21, h22, h23, h26, h30⟩

/-- The (W) half of R25. -/
theorem inv_waitForStart {T : LengthTable} {p : Parser} (h : p.inv T = true) (hm : p.mode = .waitForStart) :
    p = Parser.reset := by
  obtain ⟨mode, cmd, len, acc⟩ := p
  simp only at hm; subst hm
  simp only [Parser.inv, Bool.and_eq_true, beq_iff_eq] at h
  obtain ⟨⟨rfl, rfl⟩, rfl⟩ := h
  rfl

/-- The (M) half of R25. -/
theorem inv_inMessage_iff {T : LengthTable} {p : Parser} (hm : p.mode = .inMessage) :
    p.inv T = true ↔ p.currentCommand ≠ 0x00 ∧ p.expectedLength.toNat = tableLen T p.currentCommand ∧
      (1 ≤ p.expectedLength.toNat ∧ p.expectedLength.toNat ≤ 3) ∧ p.count < p.expectedLength.toNat := by
  simp [Parser.inv, hm, legalLen, and_assoc]

theorem inv_inMessage {T : LengthTable} {p : Parser} (h : p.inv T = true) (hm : p.mode = .inMessage) :
    p.currentCommand ≠ 0x00 ∧ p.expectedLength.toNat = tableLen T p.currentCommand ∧
      (1 ≤ p.expectedLength.toNat ∧ p.expectedLength.toNat ≤ 3) ∧ p.count < p.expectedLength.toNat :=
  (inv_inMessage_iff hm).mp h

/-- The byte about to be fed is the last exactly when the payload with it has the expected length (R104, D23). -/
theorem lastByteDue_iff {p : Parser} :
    p.lastByteDue = true ↔ p.accumulatedPayload.length + 1 = p.expectedLength.toNat := by
  simp [Parser.lastByteDue, Parser.count]

/-- Feeding the last byte in a state that meets R25 completes the Message of the registers (R104). -/
theorem execCompleted_eq {s : State} {b : Byte} (h : s.parser.inv lenTable = true)
    (hm : s.parser.mode = .inMessage) (hl : s.parser.lastByteDue = true) :
    execCompleted s b = .next (s.frameComplete (s.parser.completed b)) := by
  obtain ⟨hc, he, -, -⟩ := inv_inMessage h hm
  have hlen : (s.parser.accumulatedPayload ++ [b]).length = LEN s.parser.currentCommand := by
    have : s.parser.count + 1 = s.parser.expectedLength.toNat := by simpa [Parser.lastByteDue] using hl
    rw [List.length_append, List.length_singleton]
    exact this.trans he
  obtain ⟨i, hd, -, -, -, hx⟩ := decode_completed hc hlen
  have hf : s.parser.fetched ++ [b] = s.parser.currentCommand :: (s.parser.accumulatedPayload ++ [b]) := by
    simp [Parser.fetched, hm]
  rw [execCompleted, hf, hd]
  exact hx s

/-- The four transitions of `feed` (R100), as a relation between the states around the step. -/
inductive FeedStep (s : State) (b : Byte) : State → Prop where
  | idle (hm : s.parser.mode = .waitForStart) (hb : b = 0x00) : FeedStep s b (s.emit Outputs.quiet)
  | start (hm : s.parser.mode = .waitForStart) (hb : b ≠ 0x00) : FeedStep s b (s.frameStart b)
  | payload (hm : s.parser.mode = .inMessage) (hl : s.parser.lastByteDue = false) : FeedStep s b (s.payloadByte b)
  | complete (hm : s.parser.mode = .inMessage) (hl : s.parser.lastByteDue = true) :
      FeedStep s b (s.frameComplete (s.parser.completed b))

/-- In a state that meets the invariant, feeding a byte takes one of the four transitions. -/
theorem feedByte_next {s : State} (h : s.Inv) (b : Byte) : ∃ t, feedByte s b = .next t ∧ FeedStep s b t := by
  obtain ⟨hr, hi⟩ := h
  simp only [feedByte, hr, hi, Bool.true_eq_false, if_false]
  cases hm : s.parser.mode with
  | waitForStart =>
    by_cases hb : b = 0x00
    · exact ⟨_, if_pos hb, .idle hm hb⟩
    · exact ⟨_, if_neg hb, .start hm hb⟩
  | inMessage =>
    cases hl : s.parser.lastByteDue with
    | false => exact ⟨_, rfl, .payload hm hl⟩
    | true => exact ⟨_, execCompleted_eq hi hm hl, .complete hm hl⟩

/-- Feeding a byte goes on only in a state that meets the invariant. -/
theorem feedByte_cases {s t : State} {b : Byte} (h : feedByte s b = .next t) : s.Inv ∧ FeedStep s b t := by
  by_cases hr : s.wasReset = false
  · simp [feedByte, hr] at h
  by_cases hi : s.parser.inv lenTable = false
  · simp [feedByte, hr, hi] at h
  have hs : s.Inv := ⟨by simpa using hr, by simpa using hi⟩
  obtain ⟨t', ht', hf⟩ := feedByte_next hs b
  rw [h] at ht'
  cases ht'
  exact ⟨hs, hf⟩

/-- Everything a step can do when it answers a next state. -/
theorem step_cases {s t : State} (h : step s = .next t) :
    (s.input = [] ∧ t = s.idleCycle) ∨
    ∃ c rest, s.input = c :: rest ∧
      ((c.rst = true ∧ t = { s with input := rest }.resetCycle) ∨
       (c.rst = false ∧ c.inValid = false ∧ t = { s with input := rest }.idleCycle) ∨
       (c.rst = false ∧ c.inValid = true ∧ s.Inv ∧ FeedStep { s with input := rest } c.inByte t)) := by
  unfold step nextCycle at h
  split at h
  · rename_i hi
    cases h
    exact .inl ⟨hi, rfl⟩
  · rename_i c rest hi
    refine .inr ⟨c, rest, hi, ?_⟩
    cases hr : c.rst with
    | true => simp only [cycle, hr] at h; cases h; exact .inl ⟨rfl, rfl⟩
    | false =>
      cases hv : c.inValid with
      | false => simp only [cycle, hr, hv] at h; cases h; exact .inr (.inl ⟨rfl, rfl, rfl⟩)
      | true =>
        simp only [cycle, hr, hv] at h
        obtain ⟨hs, hf⟩ := feedByte_cases h
        exact .inr (.inr ⟨rfl, rfl, hs, hf⟩)

/-- A step on a presented byte is that byte's feed (R110). -/
theorem step_feed {s : State} {b : Byte} {rest : List InputCycle} (h : s.input = InputCycle.feed b :: rest) :
    step s = feedByte { s with input := rest } b := by
  simp [step, nextCycle, h, cycle, InputCycle.feed]

/-- The invariant does not speak of the input. -/
theorem Inv_input {s : State} (rest : List InputCycle) (h : s.Inv) : ({ s with input := rest } : State).Inv := h

end Sys2Proof.Machine
end

