-- ==== Sys2Proof/Laws/Operands.lean ====
section
/-! SUPPORT. The raw integers as sums (R139: the shifted fields do not overlap, so `|` and `+` agree), and their
ranges (R76). -/

namespace Sys2Proof.Machine

theorem raw16_eq (p0 p1 : Byte) : raw16 p0 p1 = p0.toNat * 256 + p1.toNat := by
  have h := Nat.shiftLeft_add_eq_or_of_lt (i := 8) p1.isLt p0.toNat
  rw [raw16, ← h, Nat.shiftLeft_eq]

theorem raw15_eq (p0 p1 : Byte) : raw15 p0 p1 = p0.toNat % 128 * 256 + p1.toNat := by
  have h := Nat.shiftLeft_add_eq_or_of_lt (i := 8) p1.isLt (p0.toNat &&& 0x7F)
  have hm : p0.toNat &&& 0x7F = p0.toNat % 128 := Nat.and_two_pow_sub_one_eq_mod _ 7
  rw [raw15, ← h, Nat.shiftLeft_eq, hm]

theorem raw24_eq (p0 p1 p2 : Byte) : raw24 p0 p1 p2 = p0.toNat * 65536 + p1.toNat * 256 + p2.toNat := by
  have h2 := p2.isLt
  have h1 := p1.isLt
  have h := Nat.shiftLeft_add_eq_or_of_lt (i := 8) h2 p1.toNat
  have h' := Nat.shiftLeft_add_eq_or_of_lt (i := 16) (b := p1.toNat <<< 8 + p2.toNat)
    (by simp only [Nat.shiftLeft_eq]; omega) p0.toNat
  rw [raw24, Nat.or_assoc, ← h, ← h', Nat.shiftLeft_eq, Nat.shiftLeft_eq]
  omega

theorem raw16_le (p0 p1 : Byte) : raw16 p0 p1 ≤ 65535 := by
  have := p0.isLt; have := p1.isLt; rw [raw16_eq]; omega

theorem raw15_le (p0 p1 : Byte) : raw15 p0 p1 ≤ 32767 := by
  have := p1.isLt; rw [raw15_eq]; omega

theorem raw24_le (p0 p1 p2 : Byte) : raw24 p0 p1 p2 ≤ 16777215 := by
  have := p0.isLt; have := p1.isLt; have := p2.isLt; rw [raw24_eq]; omega

/-- What a decoder emits, it emits for its own command, from a payload that reaches its minimum, with its formula's
mantissa (R130). -/
theorem onMessage_emitted {d : Decoder} {m : Message} {r : Reading} (h : d.onMessage m = .emitted r) :
    m.command = d.cmd ∧ d.minLen ≤ m.payload.length ∧ r = { cmd := d.cmd, mantissa := d.formula m } := by
  unfold Decoder.onMessage at h
  split at h
  · cases h
  · split at h
    · cases h
    · rename_i hc hl
      simp only [ListenerResult.emitted.injEq] at h
      exact ⟨not_not.mp hc, by omega, h.symm⟩

/-- A Reading of a Message is what some decoder of the registry emits (R120). -/
theorem mem_readings {m : Message} {r : Reading} (h : r ∈ readings m) :
    ∃ d ∈ registry, d.onMessage m = .emitted r := by
  simp only [readings, dispatch, List.mem_filterMap, List.mem_map] at h
  obtain ⟨_, ⟨d, hd, rfl⟩, h⟩ := h
  refine ⟨d, hd, ?_⟩
  revert h
  cases d.onMessage m <;> simp [ListenerResult.reading]

end Sys2Proof.Machine
end

