-- ==== Sys2Proof/Laws/PerInstr.lean ====
section
/-! SUPPORT. Statements made of every instruction, one lemma per constructor. FrameLength: a frame is its command byte
and the table's payload length (R70, R71, R82); the idle byte stands alone (R74). -/

namespace Sys2Proof.Laws

open Sys2Proof.Machine

/-- The frame's first byte and how many bytes follow it are what the length table says. -/
def FrameLength.Statement (i : Instr) : Prop :=
  i.wellFormed = true →
    ∃ cmd payload, encode i = cmd :: payload ∧ payload.length = (if cmd = 0x00 then 0 else LEN cmd)

theorem FrameLength.idle : FrameLength.Statement .idle := fun _ => ⟨_, _, rfl, rfl⟩

theorem FrameLength.depth (p0 p1 p2 : Byte) : FrameLength.Statement (.depth p0 p1 p2) := fun _ => ⟨_, _, rfl, rfl⟩

theorem FrameLength.awa (p0 p1 : Byte) : FrameLength.Statement (.awa p0 p1) := fun _ => ⟨_, _, rfl, rfl⟩

theorem FrameLength.aws (p0 p1 : Byte) : FrameLength.Statement (.aws p0 p1) := fun _ => ⟨_, _, rfl, rfl⟩

theorem FrameLength.stw (p0 p1 : Byte) : FrameLength.Statement (.stw p0 p1) := fun _ => ⟨_, _, rfl, rfl⟩

theorem FrameLength.wtemp (p0 p1 : Byte) : FrameLength.Statement (.wtemp p0 p1) := fun _ => ⟨_, _, rfl, rfl⟩

theorem FrameLength.log (p0 p1 : Byte) : FrameLength.Statement (.log p0 p1) := fun _ => ⟨_, _, rfl, rfl⟩

theorem FrameLength.hdg (p0 : Byte) : FrameLength.Statement (.hdg p0) := fun _ => ⟨_, _, rfl, rfl⟩

theorem FrameLength.unk (cmd p0 p1 : Byte) : FrameLength.Statement (.unk cmd p0 p1) := by
  intro h
  refine ⟨cmd, [p0, p1], rfl, ?_⟩
  simp only [Instr.wellFormed, notUnknown, Bool.not_eq_true', List.contains_eq_mem, decide_eq_false_iff_not,
    List.mem_cons, not_or] at h
  rw [LEN_eq, if_neg h.1, if_neg h.2.1, if_neg h.2.2.2.2.2.2.2.1]
  rfl

end Sys2Proof.Laws
end

