-- ==== Sys2Proof/Laws/Ports.lean ====
section
/-! SUPPORT. What the ports show of a completed frame, and runs of several steps. -/

namespace Sys2Proof.Machine

/-- No decoder matches a command the table does not list (R124). -/
theorem readings_unknown {m : Message} (h : KNOWN m.command = false) : readings m = [] := by
  have h' := mt (KNOWN_iff m.command).mpr (by simp [h])
  simp only [List.mem_cons, not_or] at h'
  obtain ⟨h1, h2, h3, h4, h5, h6, h7, -⟩ := h'
  simp only [readings, dispatch, registry, List.map_cons, List.map_nil, Decoder.onMessage, depthDecoder, awaDecoder,
    awsDecoder, stwDecoder, wtempDecoder, logDecoder, hdgDecoder, ne_eq, h1, h2, h3, h4, h5, h6, h7,
    not_false_eq_true, if_true]
  rfl

/-- The Message port of a completion shows the Message, whatever is read from it (R38). -/
theorem completion_message_port (m : Message) :
    (completionOutputs m).ports.msgValid = true ∧ (completionOutputs m).ports.msgCmd = m.command ∧
    (completionOutputs m).ports.msgLen = BitVec.ofNat 2 m.payload.length ∧
    (completionOutputs m).ports.msgP0 = m.p 0 ∧ (completionOutputs m).ports.msgP1 = m.p 1 ∧
    (completionOutputs m).ports.msgP2 = m.p 2 ∧ (completionOutputs m).ports.diagUnknown = false := by
  simp only [completionOutputs, Outputs.ports]
  cases (readings m).head? <;> simp [Ports.withMessage, Ports.withReading, Ports.zero]

/-- The Reading port of a completion shows the Reading if there is one, and is 0 otherwise (R39, R144). -/
theorem completion_reading_port (m : Message) :
    (completionOutputs m).ports.rdValid = (readings m).head?.isSome ∧
    (∀ r, (readings m).head? = some r →
      (completionOutputs m).ports.rdCmd = r.cmd ∧ (completionOutputs m).ports.rdValue = BitVec.ofInt 32 r.mantissa) ∧
    ((readings m).head? = none → (completionOutputs m).ports.rdCmd = 0x00 ∧ (completionOutputs m).ports.rdValue = 0) := by
  simp only [completionOutputs, Outputs.ports]
  cases (readings m).head? <;> simp [Ports.withMessage, Ports.withReading, Ports.zero]

/-- A run of `m + n` steps is a run of `n` from where `m` steps end. -/
theorem steps_add {m : Nat} (n : Nat) {s t : State} (h : steps m s = .next t) : steps (m + n) s = steps n t := by
  induction m generalizing s with
  | zero => cases h; rw [Nat.zero_add]
  | succ m ih =>
    rw [Nat.succ_add]
    simp only [steps] at h ⊢
    cases hst : step s with
    | next u => rw [hst] at h; exact ih h
    | fault r => cases r
    | refused r => rw [hst] at h; cases h

end Sys2Proof.Machine
end

