-- ==== Sys2Proof/Tests/Slice0.lean ====
section
/-! SUPPORT. The model's own tests: ill-formed terms refused, words of the encoding written out bit by bit, vectors of
spec/95_test_vectors.md (the id is in each comment), and for every statement that has hypotheses a witness that meets
them. Expected values are the spec's. -/

namespace Sys2Proof.Tests

open Sys2Proof.Machine

/-- The state after `n` steps, if there is one. -/
def after (n : Nat) (s : State) : Option State :=
  match steps n s with
  | .next t => some t
  | _ => none

/-- State (W) with these bytes about to be fed. -/
def atW (bytes : List Byte) : State := { State.reset with input := feeds bytes }

/-- An (M) state with these bytes about to be fed. -/
def inFrame (cmd : Byte) (len : Byte) (payload bytes : List Byte) : State :=
  { State.reset with parser := ⟨.inMessage, cmd, len, payload⟩, input := feeds bytes }

/-- A Reading alone. -/
def rd (cmd : Byte) (mantissa : Int) : Option Reading := some ⟨cmd, mantissa⟩

/-! ## Well-formedness and decoding -/

theorem test_unk_idle_byte_ill_formed : (Instr.unk 0x00 0x01 0x02).wellFormed = false := by decide
theorem test_unk_known_command_ill_formed :
    (([0x01, 0x20, 0x21, 0x22, 0x23, 0x26, 0x30] : List Byte).any fun c => (Instr.unk c 0 0).wellFormed) = false := by
  decide
theorem test_unk_well_formed_at_the_edges :
    (([0x02, 0x1F, 0x24, 0x25, 0x27, 0x2F, 0x31, 0xFF] : List Byte).all fun c => (Instr.unk c 0 0).wellFormed) = true := by
  decide

-- R81: first byte 00.
theorem test_decode_idle : decode [0b00000000] = .ok (.idle, []) := by decide
-- R71 F3, R83.
theorem test_decode_depth :
    decode [0b00000001, 0b00000000, 0b00001010, 0b00000000] = .ok (.depth 0x00 0x0A 0x00, []) := by decide
theorem test_decode_awa : decode [0b00100000, 0b01011010, 0b00000000] = .ok (.awa 0x5A 0x00, []) := by decide
theorem test_decode_aws : decode [0b00100001, 0b00000000, 0b01100100] = .ok (.aws 0x00 0x64, []) := by decide
theorem test_decode_stw : decode [0b00100010, 0b10000000, 0b01100100] = .ok (.stw 0x80 0x64, []) := by decide
theorem test_decode_wtemp : decode [0b00100011, 0b00000000, 0b11001000] = .ok (.wtemp 0x00 0xC8, []) := by decide
-- R72: two payload bytes, the third is not the frame's (program P3).
theorem test_decode_log :
    decode [0b00100110, 0b00000000, 0b00000000, 0b00001010] = .ok (.log 0x00 0x00, [0x0A]) := by decide
-- R72: one payload byte (program P2).
theorem test_decode_hdg : decode [0b00110000, 0b00001110, 0b00010000] = .ok (.hdg 0x0E, [0x10]) := by decide
theorem test_decode_unk : decode [0b10011001, 0b00000001, 0b00000010] = .ok (.unk 0x99 0x01 0x02, []) := by decide
-- Each row's table word (match of opcode_table.json with operands 12, 34, 56).
theorem test_table_words :
    [(8, 0x00), (32, 0x01123456), (24, 0x201234), (24, 0x211234), (24, 0x221234), (24, 0x231234), (24, 0x261234),
      (16, 0x3012), (24, 0xFF1234)].map (fun w => decodeTableWord w.1 w.2) =
    [some .idle, some (.depth 0x12 0x34 0x56), some (.awa 0x12 0x34), some (.aws 0x12 0x34), some (.stw 0x12 0x34),
      some (.wtemp 0x12 0x34), some (.log 0x12 0x34), some (.hdg 0x12), some (.unk 0xFF 0x12 0x34)] := by decide
-- A row shorter than its frame: the operand bytes above are zeros.
theorem test_table_word_short : decodeTableWord 8 0x01 = some (.depth 0x00 0x00 0x00) := by decide

/-! ## The Frame Assembler, single steps (spec section 2.1, 2.3) -/

-- T1.
theorem test_T1_idle : after 1 (atW [0x00]) = some { atW [] with results := [Outputs.quiet] } := by decide
-- T2.
theorem test_T2_start : (after 1 (atW [0x01])).map (·.parser) = some ⟨.inMessage, 0x01, 3, []⟩ := by decide
-- T3, T4.
theorem test_T3_start : (after 1 (atW [0x30])).map (·.parser) = some ⟨.inMessage, 0x30, 1, []⟩ := by decide
theorem test_T4_start : (after 1 (atW [0x26])).map (·.parser) = some ⟨.inMessage, 0x26, 2, []⟩ := by decide
-- T5: diag.
theorem test_T5_unknown :
    (after 1 (atW [0xFF])).map (fun t => (t.parser, t.ports)) =
      some (⟨.inMessage, 0xFF, 2, []⟩, { Ports.zero with diagUnknown := true }) := by decide
-- T7, T8: 00 and a command value are payload in a frame.
theorem test_T7_payload : (after 1 (inFrame 0x01 3 [] [0x00])).map (·.parser) = some ⟨.inMessage, 0x01, 3, [0x00]⟩ := by
  decide
theorem test_T8_payload :
    (after 1 (inFrame 0x01 3 [0x00] [0x20])).map (·.parser) = some ⟨.inMessage, 0x01, 3, [0x00, 0x20]⟩ := by decide
-- T9 and section 2.5: every port of a completing step.
theorem test_T9_ports :
    (after 1 (inFrame 0x20 2 [0x5A] [0x00])).map (fun t => (t.parser, t.ports)) =
      some (Parser.reset, ⟨true, 0x20, 2, 0x5A, 0x00, 0x00, true, 0x20, 0x00000000, false⟩) := by decide
-- T20: reset inside a frame, with a byte presented.
theorem test_T20_reset :
    after 1 { inFrame 0x01 3 [0x00, 0x0A] [] with input := [⟨true, true, 0x00⟩] } = some State.reset := by decide
-- T22: a cycle without a byte.
theorem test_T22_gap :
    (after 1 { inFrame 0x99 2 [0x01] [] with input := [InputCycle.gap 0x55] }).map (·.parser) =
      some ⟨.inMessage, 0x99, 2, [0x01]⟩ := by decide
-- R182, D17: where the spec gives no meaning.
theorem test_before_reset : step { atW [0x01] with wasReset := false } = .refused .notYetReset := rfl
theorem test_unreachable : step { atW [0x01] with parser := ⟨.waitForStart, 0x01, 0, []⟩ } = .refused .unreachableState := rfl

/-! ## Whole frames (spec section 2.2) and the port values of section 2.5 -/

-- S6.
theorem test_S6_depth :
    (after 4 (atW [0x01, 0x00, 0x0A, 0x00])).map (·.results) =
      some [Outputs.quiet, Outputs.quiet, Outputs.quiet, ⟨some ⟨0x01, [0x00, 0x0A, 0x00]⟩, rd 0x01 30480, none⟩] := by
  decide
-- T10, T11, T12, T13, T14: the Readings of the five commands that give one.
theorem test_T10_depth : (after 4 (atW [0x01, 0x12, 0x34, 0x56])).map (·.readingsOut) = some [⟨0x01, 14203680⟩] := by
  decide
theorem test_T11_awa : (after 3 (atW [0x20, 0xB4, 0x77])).map (·.readingsOut) = some [⟨0x20, 180⟩] := by decide
theorem test_T12_aws : (after 3 (atW [0x21, 0x01, 0x00])).map (·.readingsOut) = some [⟨0x21, 256⟩] := by decide
theorem test_T13_stw : (after 3 (atW [0x22, 0x80, 0x64])).map (·.readingsOut) = some [⟨0x22, 100⟩] := by decide
theorem test_T14_wtemp : (after 3 (atW [0x23, 0x01, 0x5E])).map (·.readingsOut) = some [⟨0x23, 250⟩] := by decide
-- T15, T16, T17: a Message, no Reading.
theorem test_T15_log :
    (after 3 (atW [0x26, 0x12, 0x34])).map (fun t => (t.messages, t.readingsOut)) = some ([⟨0x26, [0x12, 0x34]⟩], []) := by
  decide
theorem test_T16_hdg :
    (after 2 (atW [0x30, 0x0E])).map (fun t => (t.messages, t.readingsOut)) = some ([⟨0x30, [0x0E]⟩], []) := by decide
theorem test_T17_unk :
    (after 3 (atW [0x99, 0x01, 0x02])).map (·.results) =
      some [⟨none, none, some 0x99⟩, Outputs.quiet, ⟨some ⟨0x99, [0x01, 0x02]⟩, none, none⟩] := by decide
-- Section 2.5: rd_value of the streams 20 00 00, 23 00 00, 01 FF FF FF.
theorem test_rd_value_awa_least : (after 3 (atW [0x20, 0x00, 0x00])).map (·.ports.rdValue) = some 0xFFFFFF4C := by decide
theorem test_rd_value_wtemp_least : (after 3 (atW [0x23, 0x00, 0x00])).map (·.ports.rdValue) = some 0xFFFFFF9C := by decide
theorem test_rd_value_depth_most : (after 4 (atW [0x01, 0xFF, 0xFF, 0xFF])).map (·.ports.rdValue) = some 0x0BE7F418 := by
  decide
-- The spec's false variant: 26 00 00 0A yields no Reading and an unknown frame in progress.
theorem test_false_variant :
    (after 4 (atW [0x26, 0x00, 0x00, 0x0A])).map (fun t => (t.readingsOut, t.parser)) =
      some ([], ⟨.inMessage, 0x0A, 2, []⟩) := by decide

/-! ## Decoders given a payload directly (spec section 2.4) -/

theorem test_V_depth : -- V3, V4, V6, V8
    ([⟨0x01, [0x01, 0x00, 0x55]⟩, ⟨0x01, [0xFF, 0xFF]⟩, ⟨0x01, [0x12]⟩, ⟨0x20, [0x00, 0x0A, 0x00]⟩] : List Message).map
      depthDecoder.onMessage =
    [.emitted ⟨0x01, 780288⟩, .emitted ⟨0x01, 199750680⟩, .undersized, .mismatch] := by decide
theorem test_V_awa : -- V9, V10, V14, V15
    ([⟨0x20, [0x00]⟩, ⟨0x20, [0x59]⟩, ⟨0x20, [0xFF]⟩, ⟨0x20, []⟩] : List Message).map awaDecoder.onMessage =
    [.emitted ⟨0x20, -180⟩, .emitted ⟨0x20, -2⟩, .emitted ⟨0x20, 330⟩, .undersized] := by decide
theorem test_V_aws : -- V18, V19, V20, V21
    ([⟨0x21, [0x01, 0x00]⟩, ⟨0x21, [0x00, 0x01, 0x99]⟩, ⟨0x21, [0xFF, 0xFF]⟩, ⟨0x21, [0x64]⟩] : List Message).map
      awsDecoder.onMessage =
    [.emitted ⟨0x21, 256⟩, .emitted ⟨0x21, 1⟩, .emitted ⟨0x21, 65535⟩, .undersized] := by decide
theorem test_V_stw : -- V23, V24, V26, V27
    ([⟨0x22, [0x80, 0x64]⟩, ⟨0x22, [0x80, 0x00]⟩, ⟨0x22, [0xFF, 0xFF]⟩, ⟨0x22, [0x55]⟩] : List Message).map
      stwDecoder.onMessage =
    [.emitted ⟨0x22, 100⟩, .emitted ⟨0x22, 0⟩, .emitted ⟨0x22, 32767⟩, .undersized] := by decide
theorem test_V_wtemp : -- V28, V29, V33, V34
    ([⟨0x23, [0x00, 0x00]⟩, ⟨0x23, [0x00, 0x63]⟩, ⟨0x23, [0xFF, 0xFF]⟩, ⟨0x23, [0x01]⟩] : List Message).map
      wtempDecoder.onMessage =
    [.emitted ⟨0x23, -100⟩, .emitted ⟨0x23, -1⟩, .emitted ⟨0x23, 65435⟩, .undersized] := by decide
theorem test_V_log : -- V35, V37, V38, V40
    ([⟨0x26, [0x00, 0x00, 0x0A]⟩, ⟨0x26, [0x01, 0x00, 0x00]⟩, ⟨0x26, [0x12, 0x34, 0x56]⟩, ⟨0x26, [0x00, 0x00]⟩] :
      List Message).map logDecoder.onMessage =
    [.emitted ⟨0x26, 10⟩, .emitted ⟨0x26, 65536⟩, .emitted ⟨0x26, 1193046⟩, .undersized] := by decide
theorem test_V_hdg : -- V43, V44, V45, V47
    ([⟨0x30, [0x04, 0xD2]⟩, ⟨0x30, [0x04, 0xD2, 0xEE]⟩, ⟨0x30, [0x0E, 0x10]⟩, ⟨0x30, [0x0E]⟩] : List Message).map
      hdgDecoder.onMessage =
    [.emitted ⟨0x30, 1234⟩, .emitted ⟨0x30, 1234⟩, .emitted ⟨0x30, 3600⟩, .undersized] := by decide
theorem test_V48_all_skip : dispatch ⟨0x99, [0x01, 0x02]⟩ = List.replicate 7 .mismatch := by decide
-- S1, S2, S4: the source's decimal values.
theorem test_S1_value : Reading.value ⟨0x01, 30480⟩ = 3048 / 10000 := by norm_num [Reading.value, rdExp]
theorem test_S2_value : Reading.value ⟨0x20, 0⟩ = 0 := by norm_num [Reading.value, rdExp]
theorem test_S4_value : Reading.value ⟨0x23, 100⟩ = 10 := by
  have h : rdExp 0x23 = 1 := by decide
  norm_num [Reading.value, h]

/-! ## Placing a frame for the next step -/

theorem test_withFetchWord_runs :
    ([(8, 0x00), (32, 0x01123456), (24, 0x201234), (24, 0x211234), (24, 0x221234), (24, 0x231234), (24, 0x261234),
      (16, 0x3012), (24, 0xFF1234)] : List (Nat × Nat)).map
        (fun w => (after 1 (State.reset.withFetchWord w.1 w.2)).map (·.messages)) =
    [some [], some [⟨0x01, [0x12, 0x34, 0x56]⟩], some [⟨0x20, [0x12, 0x34]⟩], some [⟨0x21, [0x12, 0x34]⟩],
      some [⟨0x22, [0x12, 0x34]⟩], some [⟨0x23, [0x12, 0x34]⟩], some [⟨0x26, [0x12, 0x34]⟩], some [⟨0x30, [0x12]⟩],
      some [⟨0xFF, [0x12, 0x34]⟩]] := by decide

/-! ## Witnesses: each statement's hypotheses are met -/

theorem witness_DecodeOfEncodeIsTheFrame : (Instr.unk 0x02 0x00 0xFF).wellFormed = true := by decide
theorem witness_EncodeOfDecodeIsTheBytes : decode [0xFF, 0x00, 0x01, 0x02] = .ok (.unk 0xFF 0x00 0x01, [0x02]) := by
  decide
theorem witness_DecodeFailsOnlyOnMissingBytes_short :
    (0x01 : Byte) ≠ 0x00 ∧ ([0x00, 0x0A] : List Byte).length < LEN 0x01 := by decide
theorem witness_DecodeFailsOnlyOnMissingBytes_enough :
    (0x01 : Byte) ≠ 0x00 ∧ LEN 0x01 ≤ ([0x00, 0x0A, 0x00] : List Byte).length := by decide
theorem witness_FrameWordReadsBack : (Instr.depth 0x00 0x0A 0x00).wellFormed = true := by decide
theorem witness_ResetCycleFromEveryState :
    ({ inFrame 0x01 3 [0x00] [] with input := [⟨true, true, 0x0A⟩] } : State).input = ⟨true, true, 0x0A⟩ :: [] ∧
      (⟨true, true, 0x0A⟩ : InputCycle).rst = true := ⟨rfl, rfl⟩
theorem witness_CycleWithoutByteHolds_gap :
    ({ State.reset with input := [InputCycle.gap 0xFF] } : State).input = InputCycle.gap 0xFF :: [] ∧
      (InputCycle.gap 0xFF).rst = false ∧ (InputCycle.gap 0xFF).inValid = false := ⟨rfl, rfl, rfl⟩
theorem witness_CycleWithoutByteHolds_empty : State.reset.input = [] := rfl
theorem witness_NoTimeout :
    ∀ c ∈ ({ inFrame 0x01 3 [0x00] [] with input := [InputCycle.gap 0x01, InputCycle.feed 0x02] } : State).input.take 1,
      c.rst = false ∧ c.inValid = false := by decide
theorem witness_OnlyCompletionOrResetLeavesTheFrame_completion :
    (after 1 (inFrame 0x30 1 [] [0x0E])).map (·.parser.mode) = some .waitForStart ∧
      (inFrame 0x30 1 [] [0x0E]).parser.mode = .inMessage := by decide
theorem witness_OnlyCompletionOrResetLeavesTheFrame_reset :
    (after 1 { inFrame 0x01 3 [] [] with input := [⟨true, false, 0x00⟩] }).map (·.parser.mode) = some .waitForStart := by
  decide
theorem witness_IdleByteIsIgnored :
    (atW [0x00, 0x01]).Inv ∧ (atW [0x00, 0x01]).parser.mode = .waitForStart ∧
      (atW [0x00, 0x01]).input = InputCycle.feed 0x00 :: feeds [0x01] := ⟨⟨rfl, rfl⟩, rfl, rfl⟩
theorem witness_FrameStartTransition :
    (atW [0xFF]).Inv ∧ (atW [0xFF]).parser.mode = .waitForStart ∧ (0xFF : Byte) ≠ 0x00 ∧
      (atW [0xFF]).input = InputCycle.feed 0xFF :: [] := ⟨⟨rfl, rfl⟩, rfl, by decide, rfl⟩
theorem witness_PayloadByteTransition :
    (inFrame 0x01 3 [0x00] [0x20]).Inv ∧ (inFrame 0x01 3 [0x00] [0x20]).parser.mode = .inMessage ∧
      ([0x00] : List Byte).length + 1 < (3 : Byte).toNat ∧
      (inFrame 0x01 3 [0x00] [0x20]).input = InputCycle.feed 0x20 :: [] := ⟨⟨rfl, rfl⟩, rfl, by decide, rfl⟩
theorem witness_FrameCompletionTransition :
    (inFrame 0x01 3 [0x00, 0x0A] [0x00]).Inv ∧ (inFrame 0x01 3 [0x00, 0x0A] [0x00]).parser.mode = .inMessage ∧
      ([0x00, 0x0A] : List Byte).length + 1 = (3 : Byte).toNat ∧
      (inFrame 0x01 3 [0x00, 0x0A] [0x00]).input = InputCycle.feed 0x00 :: [] := ⟨⟨rfl, rfl⟩, rfl, by decide, rfl⟩
theorem witness_ZeroInsideFrameIsPayload_append :
    (inFrame 0x01 3 [] [0x00]).Inv ∧ (inFrame 0x01 3 [] [0x00]).parser.mode = .inMessage ∧
      (inFrame 0x01 3 [] [0x00]).input = InputCycle.feed 0x00 :: [] ∧
      ([] : List Byte).length + 1 < (3 : Byte).toNat := ⟨⟨rfl, rfl⟩, rfl, rfl, by decide⟩
theorem witness_ZeroInsideFrameIsPayload_complete :
    (inFrame 0x30 1 [] [0x00]).Inv ∧ (inFrame 0x30 1 [] [0x00]).parser.mode = .inMessage ∧
      (inFrame 0x30 1 [] [0x00]).input = InputCycle.feed 0x00 :: [] ∧
      ([] : List Byte).length + 1 = (1 : Byte).toNat := ⟨⟨rfl, rfl⟩, rfl, rfl, by decide⟩
theorem witness_StepRunsTheDecodedInstruction_idle :
    (atW [0x00]).Inv ∧ (atW [0x00]).input = InputCycle.feed 0x00 :: [] ∧
      decode ((atW [0x00]).parser.fetched ++ [0x00]) = .ok (.idle, []) := ⟨⟨rfl, rfl⟩, rfl, rfl⟩
theorem witness_StepRunsTheDecodedInstruction_frame :
    (inFrame 0x01 3 [0x00, 0x0A] [0xFF]).Inv ∧ (inFrame 0x01 3 [0x00, 0x0A] [0xFF]).input = InputCycle.feed 0xFF :: [] ∧
      decode ((inFrame 0x01 3 [0x00, 0x0A] [0xFF]).parser.fetched ++ [0xFF]) = .ok (.depth 0x00 0x0A 0xFF, []) :=
  ⟨⟨rfl, rfl⟩, rfl, rfl⟩
theorem witness_PlacedFrameRunsNext : (Instr.hdg 0xFF).wellFormed = true := by decide
theorem witness_ExecLogHdgUnkComplete : (Instr.unk 0x31 0xFF 0x00).wellFormed = true := by decide
theorem witness_EveryInstructionFrame : (Instr.idle = .idle) ∧ (Instr.hdg 0x00 ≠ .idle) := by decide
theorem witness_DepthDecoder : depthDecoder.onMessage ⟨0x01, [0xFF, 0xFF]⟩ = .emitted ⟨0x01, 199750680⟩ := by decide
theorem witness_AwaDecoder : awaDecoder.onMessage ⟨0x20, [0xFF]⟩ = .emitted ⟨0x20, 330⟩ := by decide
theorem witness_AwsDecoder : awsDecoder.onMessage ⟨0x21, [0xFF, 0xFF]⟩ = .emitted ⟨0x21, 65535⟩ := by decide
theorem witness_StwDecoder : stwDecoder.onMessage ⟨0x22, [0x7F, 0xFF]⟩ = .emitted ⟨0x22, 32767⟩ := by decide
theorem witness_WtempDecoder : wtempDecoder.onMessage ⟨0x23, [0x00, 0x00]⟩ = .emitted ⟨0x23, -100⟩ := by decide
theorem witness_LogDecoder_emits :
    logDecoder.onMessage ⟨0x26, [0xFF, 0xFF, 0xFF]⟩ = .emitted ⟨0x26, 16777215⟩ := by decide
theorem witness_LogDecoder_framed :
    (⟨0x26, [0x12, 0x34]⟩ : Message).command = 0x26 ∧ (⟨0x26, [0x12, 0x34]⟩ : Message).payload.length = LEN 0x26 := by
  decide
theorem witness_HdgDecoder_emits : hdgDecoder.onMessage ⟨0x30, [0xFF, 0xFF]⟩ = .emitted ⟨0x30, 65535⟩ := by decide
theorem witness_HdgDecoder_framed :
    (⟨0x30, [0x0E]⟩ : Message).command = 0x30 ∧ (⟨0x30, [0x0E]⟩ : Message).payload.length = LEN 0x30 := by decide
theorem witness_AtMostOneReading : KNOWN (⟨0x99, []⟩ : Message).command = false := by decide
theorem witness_FramedReadings_reading :
    (⟨0x23, [0x00, 0x63]⟩ : Message).command ≠ 0x00 ∧
      (⟨0x23, [0x00, 0x63]⟩ : Message).payload.length = LEN (⟨0x23, [0x00, 0x63]⟩ : Message).command ∧
      readings ⟨0x23, [0x00, 0x63]⟩ = [⟨0x23, -1⟩] := by decide
theorem witness_FramedReadings_none :
    (⟨0x26, [0x00, 0x00]⟩ : Message).command ≠ 0x00 ∧
      (⟨0x26, [0x00, 0x00]⟩ : Message).payload.length = LEN (⟨0x26, [0x00, 0x00]⟩ : Message).command ∧
      readings ⟨0x26, [0x00, 0x00]⟩ = [] := by decide
theorem witness_MantissaFitsThePort : (⟨0x20, -180⟩ : Reading) ∈ readings ⟨0x20, [0x00]⟩ := by decide
theorem witness_BytesBeyondTheMinimumAreIgnored :
    depthDecoder ∈ registry ∧ ([0x00, 0x0A] : List Byte).length = depthDecoder.minLen ∧ (0x01 : Byte) = depthDecoder.cmd :=
  ⟨List.mem_cons_self .., rfl, rfl⟩
theorem witness_PortsLegalAfterEveryStep :
    step (inFrame 0x30 1 [] [0x0E]) =
      .next { State.reset with
        ports := ⟨true, 0x30, 1, 0x0E, 0x00, 0x00, false, 0x00, 0, false⟩
        results := [⟨some ⟨0x30, [0x0E]⟩, none, none⟩] } := rfl
theorem witness_PayloadRegistersFollowTheAppend :
    (⟨.inMessage, 0x01, 3, [0x00, 0x0A]⟩ : Parser).count < 3 ∧ ([0x01, 0x02, 0x03] : List Byte).length ≤ 3 ∧
      payloadBuffer [0x01, 0x02, 0x03] = payloadBuffer [0x01, 0x02, 0x03] := by decide
theorem witness_StepKeepsTheInvariant :
    (atW [0x01]).Inv ∧ step (atW [0x01]) =
      .next { State.reset with parser := ⟨.inMessage, 0x01, 3, []⟩, results := [Outputs.quiet] } := ⟨⟨rfl, rfl⟩, rfl⟩
theorem witness_StepIsTotal : (inFrame 0xFF 2 [0x00] [0x00]).Inv := ⟨rfl, rfl⟩
theorem witness_RefusedExactlyWhereTheSpecIsSilent_notYetReset :
    ({ atW [0xFF] with wasReset := false } : State).input = InputCycle.feed 0xFF :: [] ∧
      step { atW [0xFF] with wasReset := false } = .refused .notYetReset := ⟨rfl, rfl⟩
theorem witness_RefusedExactlyWhereTheSpecIsSilent_unreachable :
    (inFrame 0x30 1 [0x00] [0x00]).wasReset = true ∧ (inFrame 0x30 1 [0x00] [0x00]).parser.inv lenTable = false ∧
      step (inFrame 0x30 1 [0x00] [0x00]) = .refused .unreachableState := ⟨rfl, rfl, rfl⟩
theorem witness_OutputRecordIsNeverRead :
    ({ atW [0x01] with results := [Outputs.quiet] } : State).parser = (atW [0x01]).parser ∧
      ({ atW [0x01] with results := [Outputs.quiet] } : State).wasReset = (atW [0x01]).wasReset ∧
      ({ atW [0x01] with results := [Outputs.quiet] } : State).input = (atW [0x01]).input ∧
      step (atW [0x01]) =
        .next { State.reset with parser := ⟨.inMessage, 0x01, 3, []⟩, results := [Outputs.quiet] } := ⟨rfl, rfl, rfl, rfl⟩
theorem witness_StepRefinesTheFrameAssembler :
    (inFrame 0x26 2 [0x12] [0x34]).Inv ∧ (inFrame 0x26 2 [0x12] [0x34]).input = InputCycle.feed 0x34 :: [] :=
  ⟨⟨rfl, rfl⟩, rfl⟩
/-- A legal table in which a log frame has three payload bytes (D15). -/
def longLogTable : LengthTable := { rows := [(0x26, 3)], defaultLen := 1 }
theorem witness_AnyLegalTableFrames_legal :
    tableLegal longLogTable = true ∧ (⟨.inMessage, 0x26, 3, [0x00, 0x00]⟩ : Parser).inv longLogTable = true := by decide
theorem test_long_log_table_reads :
    (feedWith longLogTable ⟨.inMessage, 0x26, 3, [0x00, 0x00]⟩ 0x0A).map (·.2.reading) = some (rd 0x26 10) := by decide
theorem witness_AnyLegalTableFrames_illegal : tableLegal { rows := [(0x26, 4)], defaultLen := 2 } = false := by decide
theorem witness_OneFrameOneMessage :
    (atW [0x99, 0x01, 0x02, 0x00]).AtBoundary ∧ (0x99 : Byte) ≠ 0x00 ∧ ([0x01, 0x02] : List Byte).length = LEN 0x99 ∧
      (atW [0x99, 0x01, 0x02, 0x00]).input = feeds (0x99 :: [0x01, 0x02]) ++ feeds [0x00] :=
  ⟨⟨rfl, rfl⟩, by decide, rfl, rfl⟩
theorem witness_StreamOfFramesGivesItsMessages :
    (∀ i ∈ [Instr.idle, .awa 0x5A 0x00, .unk 0xFF 0x00 0x00], i.wellFormed = true) ∧
      (atW [0x00, 0x20, 0x5A, 0x00, 0xFF, 0x00, 0x00]).AtBoundary ∧
      (atW [0x00, 0x20, 0x5A, 0x00, 0xFF, 0x00, 0x00]).input =
        feeds ([Instr.idle, .awa 0x5A 0x00, .unk 0xFF 0x00 0x00].flatMap encode) ++ [] :=
  ⟨by decide, ⟨rfl, rfl⟩, rfl⟩
theorem witness_GapsNeverMatter :
    (after 3 { atW [] with input := [InputCycle.gap 0x00, InputCycle.feed 0x30, InputCycle.gap 0x00] }).isSome = true := by
  decide

end Sys2Proof.Tests
end

/-! SUPPORT. Proofs of the statements about the state (spec 10_state.md): the registers' updates keep R25, the Frame
Assembler's four transitions as equations, the step on each kind of input cycle, the ports of each kind of outputs, and the
obligations settled from them. -/

namespace Sys2Proof.Machine

/-! ## The registers' updates keep R25 -/

/-- State (W) meets R25 over every table. -/
theorem parserReset_inv (T : LengthTable) : Parser.reset.inv T = true := rfl

/-- A legal table's lengths are 1, 2 or 3 (R29, D16). -/
theorem tableLen_bounds {T : LengthTable} (hT : tableLegal T = true) (c : Byte) :
    1 ≤ tableLen T c ∧ tableLen T c ≤ 3 := by
  simpa [legalLen] using legalLen_of_tableLegal hT c

/-- A legal length fits the register that latches it (R23, R102). -/
theorem toNat_parserFrameStart_expectedLength {T : LengthTable} (hT : tableLegal T = true) (b : Byte) :
    (Parser.frameStart T b).expectedLength.toNat = tableLen T b := by
  obtain ⟨-, hle⟩ := tableLen_bounds hT b
  rw [parserFrameStart_expectedLength, BitVec.toNat_ofNat, Nat.mod_eq_of_lt (by omega)]

/-- A frame start over a legal table meets R25: its length register holds the table's length and no payload yet (R102). -/
theorem parserFrameStart_inv {T : LengthTable} {b : Byte} (hT : tableLegal T = true) (hb : b ≠ 0x00) :
    (Parser.frameStart T b).inv T = true := by
  have hlen := tableLen_bounds hT b
  rw [inv_inMessage_iff rfl, toNat_parserFrameStart_expectedLength hT]
  exact ⟨hb, rfl, hlen, hlen.1⟩

/-- Appending a payload byte that is not the last keeps R25 (R103). -/
theorem payloadAppend_inv {T : LengthTable} {p : Parser} (b : Byte) (h : p.inv T = true) (hm : p.mode = .inMessage)
    (hl : p.lastByteDue = false) : (p.payloadAppend b).inv T = true := by
  obtain ⟨hc, hlen, hlegal, hcount⟩ := inv_inMessage h hm
  have hnot : p.count + 1 ≠ p.expectedLength.toNat := by simpa [Parser.lastByteDue] using hl
  have hcount' : (p.payloadAppend b).count = p.count + 1 := by simp [Parser.count]
  rw [inv_inMessage_iff (by simpa using hm), hcount']
  exact ⟨hc, hlen, hlegal, by simp only [payloadAppend_expectedLength]; omega⟩

/-- The Message of a completion has a non-zero command and its command's table length (R31). -/
theorem completed_framed {T : LengthTable} {p : Parser} (b : Byte) (h : p.inv T = true) (hm : p.mode = .inMessage)
    (hl : p.lastByteDue = true) :
    (p.completed b).command ≠ 0x00 ∧ (p.completed b).payload.length = tableLen T (p.completed b).command := by
  obtain ⟨hc, hlen, -, -⟩ := inv_inMessage h hm
  refine ⟨hc, ?_⟩
  simp only [Parser.completed, List.length_append, List.length_singleton]
  exact (lastByteDue_iff.mp hl).trans hlen

/-! ## The Frame Assembler over any table, one equation per transition -/

section FeedWith
variable {T : LengthTable} {p : Parser} {b : Byte}

/-- An illegal table (D16) or a pattern that breaks R25 (D17) has no behaviour. -/
theorem feedWith_eq_none (h : tableLegal T = false ∨ p.inv T = false) : feedWith T p b = none := by
  rcases h with h | h <;> simp [feedWith, h]

variable (hT : tableLegal T = true) (hp : p.inv T = true)
include hT hp

/-- R101. -/
theorem feedWith_idle (hm : p.mode = .waitForStart) (hb : b = 0x00) :
    feedWith T p b = some (p, Outputs.quiet) := by
  simp [feedWith, hT, hp, hm, hb]

/-- R102. -/
theorem feedWith_start (hm : p.mode = .waitForStart) (hb : b ≠ 0x00) :
    feedWith T p b = some (Parser.frameStart T b, startOutputs T b) := by
  simp only [feedWith, hT, hp, hm, Bool.and_self, if_true, if_neg hb]

/-- R103. -/
theorem feedWith_payload (hm : p.mode = .inMessage) (hl : p.lastByteDue = false) :
    feedWith T p b = some (p.payloadAppend b, Outputs.quiet) := by
  simp [feedWith, hT, hp, hm, hl]

/-- R104. -/
theorem feedWith_complete (hm : p.mode = .inMessage) (hl : p.lastByteDue = true) :
    feedWith T p b = some (Parser.reset, completionOutputs (p.completed b)) := by
  simp [feedWith, hT, hp, hm, hl]

end FeedWith

/-- Over a legal table, in registers that meet R25, the assembler answers; what it answers meets R25 again, and the
Message, if there is one, is a framed one (R111, R112, R31). -/
theorem feedWith_total {T : LengthTable} {p : Parser} (b : Byte) (hT : tableLegal T = true) (hp : p.inv T = true) :
    ∃ p' o, feedWith T p b = some (p', o) ∧ p'.inv T = true ∧
      ∀ m, o.message = some m → m.command ≠ 0x00 ∧ m.payload.length = tableLen T m.command := by
  cases hm : p.mode with
  | waitForStart =>
    by_cases hb : b = 0x00
    · exact ⟨_, _, feedWith_idle hT hp hm hb, hp, by simp [Outputs.quiet]⟩
    · exact ⟨_, _, feedWith_start hT hp hm hb, parserFrameStart_inv hT hb, by simp [startOutputs]⟩
  | inMessage =>
    cases hl : p.lastByteDue with
    | false => exact ⟨_, _, feedWith_payload hT hp hm hl, payloadAppend_inv b hp hm hl, by simp [Outputs.quiet]⟩
    | true =>
      refine ⟨_, _, feedWith_complete hT hp hm hl, parserReset_inv T, fun m h => ?_⟩
      obtain rfl : p.completed b = m := by simpa [completionOutputs] using h
      exact completed_framed b hp hm hl

/-- Settles O45: the four transitions of the assembler for a legal table and registers that meet R25, the guard of
`feedWith` for everything else. -/
theorem anyLegalTableFrames : Obligations.AnyLegalTableFrames :=
  ⟨fun _ _ b hT hp => feedWith_total b hT hp, fun _ _ _ h => feedWith_eq_none h⟩

/-! ## The step on each kind of input cycle -/

section Step
variable {s : State} {c : InputCycle} {rest : List InputCycle}

/-- Nothing presented is a cycle without a byte (log 2). -/
theorem step_of_input_nil (h : s.input = []) : step s = .next s.idleCycle := by
  simp [step, nextCycle, h]

/-- A presented cycle is consumed and run. -/
theorem step_of_input_cons (h : s.input = c :: rest) : step s = cycle { s with input := rest } c := by
  simp [step, nextCycle, h]

/-- `rst` resets, whatever else is presented (R180). -/
theorem cycle_of_rst (hr : c.rst = true) : cycle s c = .next s.resetCycle := by
  simp [cycle, hr]

/-- Without `rst` and `in_valid` the block holds (R110). -/
theorem cycle_of_gap (hr : c.rst = false) (hv : c.inValid = false) : cycle s c = .next s.idleCycle := by
  simp [cycle, hr, hv]

/-- `in_valid` without `rst` feeds the byte (R110). -/
theorem cycle_of_feed (hr : c.rst = false) (hv : c.inValid = true) : cycle s c = feedByte s c.inByte := by
  simp [cycle, hr, hv]

end Step

/-- A transition of `feed` is the Frame Assembler's on the registers, and drives its outputs. -/
theorem FeedStep.eq_feedWith {s t : State} {b : Byte} (hs : s.Inv) (h : FeedStep s b t) :
    ∃ p o, feedWith lenTable s.parser b = some (p, o) ∧ t = { s with parser := p }.emit o := by
  obtain ⟨-, hp⟩ := hs
  cases h with
  | idle hm hb => exact ⟨_, _, feedWith_idle lenTable_legal hp hm hb, rfl⟩
  | start hm hb => exact ⟨_, _, feedWith_start lenTable_legal hp hm hb, rfl⟩
  | payload hm hl => exact ⟨_, _, feedWith_payload lenTable_legal hp hm hl, rfl⟩
  | complete hm hl => exact ⟨_, _, feedWith_complete lenTable_legal hp hm hl, rfl⟩

/-- What a fed byte does to the registers and what it outputs is a function of the registers and the byte: whatever the
ports and the record are, it is `feedWith` at the canonical table (R33). -/
theorem feedByte_eq_feedWith {s : State} (b : Byte) (hs : s.Inv) :
    ∃ p o, feedWith lenTable s.parser b = some (p, o) ∧ feedByte s b = .next ({ s with parser := p }.emit o) := by
  obtain ⟨t, ht, hf⟩ := feedByte_next hs b
  obtain ⟨p, o, hfw, rfl⟩ := hf.eq_feedWith hs
  exact ⟨p, o, hfw, ht⟩

/-- Settles O43: of the four things a step can do, three do not look beyond the input, and feeding a byte is `feedWith`
of registers that are the same in both runs. -/
theorem outputRecordIsNeverRead : Obligations.OutputRecordIsNeverRead := by
  intro s s' t hp hw hi h
  rcases step_cases h with ⟨hs, rfl⟩ | ⟨c, rest, hs, ⟨hr, rfl⟩ | ⟨hr, hv, rfl⟩ | ⟨hr, hv, hinv, hf⟩⟩
  · exact ⟨_, step_of_input_nil (hi.trans hs), hp, hw, hi, rfl, .inr ⟨[], by simp⟩⟩
  · exact ⟨_, (step_of_input_cons (hi.trans hs)).trans (cycle_of_rst hr), rfl, rfl, rfl, rfl,
      .inl ⟨c, rest, hs, hr, rfl, rfl⟩⟩
  · exact ⟨_, (step_of_input_cons (hi.trans hs)).trans (cycle_of_gap hr hv), hp, hw, rfl, rfl, .inr ⟨[], by simp⟩⟩
  · have hinv' : s'.Inv := by rwa [State.Inv, hp, hw]
    obtain ⟨p, o, hfw, rfl⟩ := hf.eq_feedWith (Inv_input rest hinv)
    obtain ⟨p', o', hfw', hstep⟩ := feedByte_eq_feedWith c.inByte (Inv_input rest hinv')
    obtain ⟨rfl, rfl⟩ : p = p' ∧ o = o' := by simpa [hp, hfw] using hfw'
    exact ⟨_, (step_of_input_cons (hi.trans hs)).trans ((cycle_of_feed hr hv).trans hstep), rfl, hw, rfl, rfl,
      .inr ⟨[o], rfl, rfl⟩⟩

/-! ## The ports of each kind of outputs obey their rules -/

/-- What some decoder of the registry emits is a Reading of the Message, and conversely (R120). -/
theorem mem_readings_iff {m : Message} {r : Reading} :
    r ∈ readings m ↔ ∃ d ∈ registry, d.onMessage m = .emitted r := by
  refine ⟨mem_readings, fun ⟨d, hd, hr⟩ => ?_⟩
  exact List.mem_filterMap.mpr ⟨_, List.mem_map.mpr ⟨d, hd, rfl⟩, by simp [hr, ListenerResult.reading]⟩

/-- A decoder emits exactly when the command is its own and the payload reaches its minimum (R130). -/
theorem exists_emitted_iff {d : Decoder} {m : Message} :
    (∃ r, d.onMessage m = .emitted r) ↔ m.command = d.cmd ∧ d.minLen ≤ m.payload.length := by
  constructor
  · rintro ⟨r, hr⟩
    obtain ⟨hc, hl, -⟩ := onMessage_emitted hr
    exact ⟨hc, hl⟩
  · rintro ⟨hc, hl⟩
    exact ⟨_, (if_neg (not_not.mpr hc)).trans (if_neg (Nat.not_lt.mpr hl))⟩

/-- The commands whose decoder's minimum their frames reach are the five of R143. -/
theorem exists_decoder_minLen_le_LEN_iff (c : Byte) :
    (∃ d ∈ registry, c = d.cmd ∧ d.minLen ≤ LEN c) ↔ c ∈ ([0x01, 0x20, 0x21, 0x22, 0x23] : List Byte) := by
  revert c; decide

/-- A Reading is of its Message's command (R143). -/
theorem cmd_of_mem_readings {m : Message} {r : Reading} (h : r ∈ readings m) : r.cmd = m.command := by
  obtain ⟨d, -, hd⟩ := mem_readings h
  obtain ⟨hc, -, rfl⟩ := onMessage_emitted hd
  exact hc.symm

/-- A framed Message has a Reading exactly for the five commands of R143. -/
theorem readings_head_isSome_iff {m : Message} (hl : m.payload.length = LEN m.command) :
    (readings m).head?.isSome = true ↔ m.command ∈ ([0x01, 0x20, 0x21, 0x22, 0x23] : List Byte) := by
  calc (readings m).head?.isSome = true
      ↔ ∃ r, r ∈ readings m := by
        rw [List.isSome_head?]
        exact ⟨List.exists_mem_of_ne_nil _, fun ⟨_, h⟩ => List.ne_nil_of_mem h⟩
    _ ↔ ∃ d ∈ registry, ∃ r, d.onMessage m = .emitted r := by
        simp only [mem_readings_iff]
        exact ⟨fun ⟨r, d, hd, hr⟩ => ⟨d, hd, r, hr⟩, fun ⟨d, hd, r, hr⟩ => ⟨r, d, hd, hr⟩⟩
    _ ↔ ∃ d ∈ registry, m.command = d.cmd ∧ d.minLen ≤ LEN m.command := by simp only [exists_emitted_iff, hl]
    _ ↔ _ := exists_decoder_minLen_le_LEN_iff m.command

/-- A payload byte at or beyond the payload's length reads 0x00 (R38, log 10). -/
theorem p_eq_zero_of_length_le {m : Message} {i : Nat} (h : m.payload.length ≤ i) : m.p i = 0x00 :=
  List.getD_eq_default _ _ h

/-- A frame start drives at most the diagnostic (R102, R105). -/
theorem startOutputs_ports (T : LengthTable) (b : Byte) :
    (startOutputs T b).ports = { Ports.zero with diagUnknown := !tableKnown T b } := by
  cases h : tableKnown T b <;> simp [startOutputs, Outputs.ports, h]

/-- The diagnostic alone obeys the rules of the ports. -/
theorem portsZero_diagUnknown_legal (d : Bool) : ({ Ports.zero with diagUnknown := d } : Ports).Legal := by
  constructor <;> simp [Ports.zero]

/-- So do all ports 0, as in a cycle that outputs nothing. -/
theorem portsZero_legal : Ports.zero.Legal := portsZero_diagUnknown_legal false

/-- The ports of the completion of a framed Message obey their rules (R38, R39, R143, R166). -/
theorem completionOutputs_ports_legal {m : Message} (hc : m.command ≠ 0x00) (hl : m.payload.length = LEN m.command) :
    (completionOutputs m).ports.Legal := by
  obtain ⟨hvalid, hcmd, hlen, -, hp1, hp2, hdiag⟩ := completion_message_port m
  obtain ⟨hrd, hrdSome, hrdNone⟩ := completion_reading_port m
  have hlen' : (completionOutputs m).ports.msgLen.toNat = m.payload.length := by
    have := (LEN_bounds m.command).2
    rw [hlen, BitVec.toNat_ofNat, Nat.mod_eq_of_lt (by omega)]
  constructor
  case message_off => simp [hvalid]
  case message_on => exact fun _ => ⟨hcmd ▸ hc, by rw [hlen', hcmd, hl]⟩
  case message_fill =>
    rw [hlen', hp1, hp2]
    exact ⟨p_eq_zero_of_length_le, p_eq_zero_of_length_le⟩
  case reading_off =>
    intro h
    exact hrdNone (by simpa [hrd] using h)
  case reading_on =>
    intro h
    obtain ⟨r, hr⟩ := Option.isSome_iff_exists.mp (hrd ▸ h)
    rw [(hrdSome r hr).1, hcmd]
    exact ⟨hvalid, cmd_of_mem_readings (List.mem_of_mem_head? hr)⟩
  case reading_when => rw [hrd, hvalid, hcmd, readings_head_isSome_iff hl]; simp
  case diag_alone => simp [hdiag]

/-- The ports after a fed byte obey their rules. -/
theorem FeedStep.ports_legal {s t : State} {b : Byte} (hs : s.Inv) (h : FeedStep s b t) : t.ports.Legal := by
  cases h with
  | idle => exact portsZero_legal
  | start => rw [frameStart_ports, startOutputs_ports]; exact portsZero_diagUnknown_legal _
  | payload => exact portsZero_legal
  | complete hm hl =>
    obtain ⟨hc, hlen⟩ := completed_framed b hs.2 hm hl
    exact completionOutputs_ports_legal hc hlen

/-- Settles O37: a cycle that feeds nothing drives all ports 0, and a fed byte's ports are legal by its transition. -/
theorem portsLegalAfterEveryStep : Obligations.PortsLegalAfterEveryStep := by
  intro s t h
  rcases step_cases h with ⟨-, rfl⟩ | ⟨c, rest, -, ⟨-, rfl⟩ | ⟨-, -, rfl⟩ | ⟨-, -, hs, hf⟩⟩
  · exact portsZero_legal
  · exact portsZero_legal
  · exact portsZero_legal
  · exact hf.ports_legal (Inv_input rest hs)

/-! ## The reset state -/

/-- Settles O7: each register of State (W) and its computed view. -/
theorem resetValues : Obligations.ResetValues :=
  ⟨parserReset_mode, rfl, parserReset_currentCommand, parserReset_expectedLength, parserReset_accumulatedPayload, rfl, rfl⟩

/-- Settles O39: state (W) meets R25 over every table, so over the canonical one. -/
theorem resetMeetsTheInvariant : Obligations.ResetMeetsTheInvariant := ⟨rfl, parserReset_inv lenTable⟩

end Sys2Proof.Machine

/-! SUPPORT. Proofs of the statements about the block's storage (spec 20_memory.md): which commands are unknown, the payload
registers under an append and read back as bytes, and the obligations settled from them. -/

namespace Sys2Proof.Machine

/-! ## The Command Length Table -/

/-- The bytes an `UNK` frame may not have are the idle byte and the known commands (R73, R53). -/
theorem mem_notUnknown_iff (c : Byte) : c ∈ notUnknown ↔ c = 0x00 ∨ KNOWN c = true := by
  rw [KNOWN_iff, notUnknown, List.mem_cons]

/-- An `UNK` frame is well formed exactly when its command is not the idle byte and not known, whatever its payload (R73). -/
theorem unk_wellFormed_iff (c p0 p1 : Byte) :
    (Instr.unk c p0 p1).wellFormed = true ↔ c ≠ 0x00 ∧ KNOWN c = false := by
  calc (Instr.unk c p0 p1).wellFormed = true
      ↔ c ∉ notUnknown := by simp [Instr.wellFormed]
    _ ↔ ¬(c = 0x00 ∨ KNOWN c = true) := not_congr (mem_notUnknown_iff c)
    _ ↔ c ≠ 0x00 ∧ KNOWN c = false := by rw [not_or, Bool.not_eq_true]

/-- Settles O6: the table's two answers, and the unknown commands as the bytes it does not know. -/
theorem lengthTableIsTheSpecs : Obligations.LengthTableIsTheSpecs :=
  fun c => ⟨KNOWN_iff c, LEN_eq c, unk_wellFormed_iff c⟩

/-! ## The payload registers -/

/-- While the buffer is not full, the append writes the register at index `count` and counts it (R51). -/
theorem payloadBuffer_append_singleton (b : Byte) :
    ∀ {l : List Byte}, l.length < 3 → payloadBuffer (l ++ [b]) = (payloadBuffer l).append b
  | [], _ => rfl
  | [_], _ => rfl
  | [_, _], _ => rfl

/-- The bytes the registers hold: those below `count`, in index order (R24). -/
def PayloadBuffer.payload (r : PayloadBuffer) : List Byte := [r.buf0, r.buf1, r.buf2].take r.count.toNat

/-- The registers of a payload the buffer can hold read back as that payload, so they lose nothing of it (R24, D7). -/
theorem payload_payloadBuffer : ∀ {l : List Byte}, l.length ≤ 3 → (payloadBuffer l).payload = l
  | [], _ => rfl
  | [_], _ => rfl
  | [_, _], _ => rfl
  | [_, _, _], _ => rfl

/-- Settles O38: the append by the number of bytes already held; the bit pattern is unique because it reads back. -/
theorem payloadRegistersFollowTheAppend : Obligations.PayloadRegistersFollowTheAppend := by
  refine ⟨fun p b hcount => payloadBuffer_append_singleton b hcount, fun l l' hl hl' heq => ?_⟩
  calc l = (payloadBuffer l).payload := (payload_payloadBuffer hl).symm
    _ = (payloadBuffer l').payload := congrArg PayloadBuffer.payload heq
    _ = l' := payload_payloadBuffer hl'

end Sys2Proof.Machine

/-! SUPPORT. Proofs of the statements about the encoding (spec 30_encoding.md): decoding an encoded frame, the three formats on
too few bytes, the bytes of a word, the frame placed for fetching, and the obligations settled from them. -/

namespace Sys2Proof.Machine

open Sys2Proof.Laws

/-! ## Decoding an encoded frame -/

/-- The opcode map sends every unknown command to format F2 (R73, R81). -/
theorem decodeFrame_unknown {c : Byte} (h : c ∉ notUnknown) (rest : List Byte) :
    decodeFrame c rest = decodeF2 c (.unk c) rest := by
  simp only [notUnknown, List.mem_cons, not_or] at h
  obtain ⟨h00, h01, h20, h21, h22, h23, h26, h30, -⟩ := h
  simp only [decodeFrame, if_neg h00, if_neg h01, if_neg h20, if_neg h21, if_neg h22, if_neg h23, if_neg h26, if_neg h30]

/-- Settles O1: by the frame's constructor; an unknown command's arm is the opcode map's last. -/
theorem decodeOfEncodeIsTheFrame : Obligations.DecodeOfEncodeIsTheFrame := by
  intro i rest h
  cases i with
  | unk c p0 p1 => exact decodeFrame_unknown (by simpa [Instr.wellFormed] using h) (p0 :: p1 :: rest)
  | idle | depth | awa | aws | stw | wtemp | log | hdg => rfl

/-- A command byte with its table length of payload, whatever follows, decodes to the well-formed frame of those bytes
(R70, R75). -/
theorem decode_frame_append {c : Byte} {payload : List Byte} (hc : c ≠ 0x00) (hl : payload.length = LEN c)
    (more : List Byte) :
    ∃ i, decode (c :: payload ++ more) = .ok (i, more) ∧ i.wellFormed = true ∧ encode i = c :: payload := by
  obtain ⟨i, -, hwf, henc, -⟩ := decode_completed hc hl
  exact ⟨i, henc ▸ decodeOfEncodeIsTheFrame i more hwf, hwf, henc⟩

/-- The same of a list that is long enough: the frame takes the table length of what follows the command. -/
theorem decode_of_LEN_le {c : Byte} {rest : List Byte} (hc : c ≠ 0x00) (hl : LEN c ≤ rest.length) :
    ∃ i, decode (c :: rest) = .ok (i, rest.drop (LEN c)) ∧ i.wellFormed = true ∧
      encode i = c :: rest.take (LEN c) := by
  simpa using decode_frame_append hc (List.length_take_of_le hl) (rest.drop (LEN c))

/-! ## Decoding too few bytes -/

section Formats
variable {c : Byte} {rest : List Byte}

/-- Format F1 on too few bytes (R71). -/
theorem decodeF1_of_length_lt {mk : Byte → Instr} (h : rest.length < 1) :
    decodeF1 c mk rest = .error (.truncated c) := by
  match rest, h with
  | [], _ => rfl

/-- Format F2 on too few bytes (R71). -/
theorem decodeF2_of_length_lt {mk : Byte → Byte → Instr} (h : rest.length < 2) :
    decodeF2 c mk rest = .error (.truncated c) := by
  match rest, h with
  | [], _ | [_], _ => rfl

/-- Format F3 on too few bytes (R71). -/
theorem decodeF3_of_length_lt {mk : Byte → Byte → Byte → Instr} (h : rest.length < 3) :
    decodeF3 c mk rest = .error (.truncated c) := by
  match rest, h with
  | [], _ | [_], _ | [_, _], _ => rfl

/-- Every command but the idle byte, `DEPTH` and `HDG` has format F2 (R72, R81). -/
theorem decodeFrame_F2 (h00 : c ≠ 0x00) (h01 : c ≠ 0x01) (h30 : c ≠ 0x30) :
    ∃ mk, decodeFrame c rest = decodeF2 c mk rest := by
  simp only [decodeFrame, if_neg h00, if_neg h01, if_neg h30]
  split_ifs <;> exact ⟨_, rfl⟩

/-- While payload bytes are missing, decoding fails and names the command (R75, R77). -/
theorem decode_of_length_lt_LEN (hc : c ≠ 0x00) (hl : rest.length < LEN c) :
    decode (c :: rest) = .error (.truncated c) := by
  rw [LEN_eq] at hl
  by_cases h01 : c = 0x01
  · subst h01; exact decodeF3_of_length_lt hl
  by_cases h30 : c = 0x30
  · subst h30; exact decodeF1_of_length_lt hl
  obtain ⟨mk, hmk⟩ := decodeFrame_F2 (rest := rest) hc h01 h30
  rw [if_neg h01, if_neg h30] at hl
  exact hmk.trans (decodeF2_of_length_lt hl)

end Formats

/-- Settles O3: by whether the table's length of payload is there; the idle byte stands alone. -/
theorem decodeFailsOnlyOnMissingBytes : Obligations.DecodeFailsOnlyOnMissingBytes := by
  refine ⟨fun _ _ => decode_of_length_lt_LEN, fun c rest hc hl => ?_, fun _ => rfl⟩
  obtain ⟨i, hdec, -⟩ := decode_of_LEN_le hc hl
  exact ⟨i, hdec⟩

/-- Settles O2: what decodes is the idle byte alone or a command with its table's length of payload, and the frame of those
bytes is the one decoded. -/
theorem encodeOfDecodeIsTheBytes : Obligations.EncodeOfDecodeIsTheBytes := by
  intro bytes i more h
  cases bytes with
  | nil => cases h
  | cons c rest =>
    by_cases hc : c = 0x00
    · subst hc; cases h; exact ⟨rfl, rfl⟩
    rcases Nat.lt_or_ge rest.length (LEN c) with hl | hl
    · rw [decode_of_length_lt_LEN hc hl] at h; cases h
    · obtain ⟨i', hdec, hwf, henc⟩ := decode_of_LEN_le hc hl
      obtain ⟨rfl, rfl⟩ : i' = i ∧ rest.drop (LEN c) = more := by simpa [hdec] using h
      exact ⟨hwf, by rw [henc, List.cons_append, List.take_append_drop]⟩

/-- Settles O5: the worked frames are encoded frames with nothing after them. -/
theorem workedEncodingsDecode : Obligations.WorkedEncodingsDecode :=
  have decodes (i : Instr) (h : i.wellFormed = true) := decodeOfEncodeIsTheFrame i [] h
  ⟨decodes (.depth 0x00 0x0A 0x00) rfl, rfl, decodes (.awa 0x5A 0x00) rfl, decodes (.aws 0x00 0x64) rfl,
    decodes (.stw 0x00 0x64) rfl, decodes (.wtemp 0x00 0xC8) rfl, decodes (.log 0x00 0x00) rfl, decodes (.hdg 0x0E) rfl,
    decodes (.unk 0x99 0x01 0x02) rfl⟩

/-! ## A frame as one number -/

/-- One more byte is eight more bits below. -/
theorem wordOfBytes_concat (bs : List Byte) (b : Byte) : wordOfBytes (bs ++ [b]) = wordOfBytes bs * 256 + b.toNat := by
  simp [wordOfBytes]

/-- Dropping the bits of the last bytes leaves the number of the bytes before them. -/
theorem wordOfBytes_append_shiftRight (pre bs : List Byte) :
    wordOfBytes (pre ++ bs) >>> (8 * bs.length) = wordOfBytes pre := by
  induction bs generalizing pre with
  | nil => simp
  | cons b bs ih =>
    rw [List.append_cons, List.length_cons, Nat.mul_add_one, Nat.shiftRight_add, ih, wordOfBytes_concat,
      Nat.shiftRight_eq_div_pow]
    have := b.isLt
    omega

/-- The last bytes of a number read back, whatever stands above them. -/
theorem bytesOfWord_wordOfBytes_append (pre bs : List Byte) :
    bytesOfWord bs.length (wordOfBytes (pre ++ bs)) = bs := by
  induction bs generalizing pre with
  | nil => rfl
  | cons b bs ih =>
    rw [List.append_cons, List.length_cons, bytesOfWord, ih, wordOfBytes_append_shiftRight, wordOfBytes_concat]
    congr 1
    exact BitVec.eq_of_toNat_eq (by simpa using b.isLt)

/-- The bytes on the stream of a frame's number are the frame's, then zeros (log 6). -/
theorem tableWordBytes_frameWord (i : Instr) :
    tableWordBytes (8 * (encode i).length) (frameWord i) =
      encode i ++ List.replicate (4 - (encode i).length) 0x00 := by
  have hbytes : bytesOfWord (encode i).length (frameWord i) = encode i := bytesOfWord_wordOfBytes_append [] (encode i)
  rw [tableWordBytes, Nat.mul_div_cancel_left _ (by decide), hbytes]

/-- Settles O4: the number's bytes are the frame's with zeros after them, which decoding leaves. -/
theorem frameWordReadsBack : Obligations.FrameWordReadsBack := by
  intro i h
  rw [decodeTableWord, tableWordBytes_frameWord, decodeOfEncodeIsTheFrame i _ h]

/-! ## A frame placed for fetching -/

/-- Every well-formed frame is its command byte and the table's length of payload (R70, R74, R82). -/
theorem frameLength : ∀ i : Instr, FrameLength.Statement i
  | .idle => FrameLength.idle
  | .depth p0 p1 p2 => FrameLength.depth p0 p1 p2
  | .awa p0 p1 => FrameLength.awa p0 p1
  | .aws p0 p1 => FrameLength.aws p0 p1
  | .stw p0 p1 => FrameLength.stw p0 p1
  | .wtemp p0 p1 => FrameLength.wtemp p0 p1
  | .log p0 p1 => FrameLength.log p0 p1
  | .hdg p0 => FrameLength.hdg p0
  | .unk c p0 p1 => FrameLength.unk c p0 p1

/-- The registers in the middle of a frame: the command and its length latched, `payload` received so far (R102, R103). -/
def Parser.inFrame (c : Byte) (payload : List Byte) : Parser :=
  { Parser.frameStart lenTable c with accumulatedPayload := payload }

/-- Appending bytes one by one appends them all (R51). -/
theorem foldl_payloadAppend (p : Parser) (l : List Byte) :
    l.foldl Parser.payloadAppend p = { p with accumulatedPayload := p.accumulatedPayload ++ l } := by
  induction l generalizing p with
  | nil => simp
  | cons b l ih => simp [ih, Parser.payloadAppend]

section Placed
variable {c b : Byte} {payload : List Byte}

/-- The registers after a frame's command byte and some of its payload. -/
theorem foldl_payloadAppend_frameStart :
    payload.foldl Parser.payloadAppend (Parser.frameStart lenTable c) = Parser.inFrame c payload := by
  simp [foldl_payloadAppend, Parser.inFrame]

/-- The bytes fetched in the middle of a frame (R26). -/
theorem inFrame_fetched : (Parser.inFrame c payload).fetched = c :: payload := rfl

/-- The idle byte is placed at the frame boundary. -/
theorem placeFrame_idle (s : State) (more : List Byte) :
    placeFrame s (0x00 :: more) =
      { s with wasReset := true, parser := Parser.reset, input := InputCycle.feed 0x00 :: s.input } := rfl

/-- Feeding the idle byte at the frame boundary executes `IDLE` (R101). -/
theorem feedByte_idle {s : State} (hr : s.wasReset = true) (hp : s.parser = Parser.reset) :
    feedByte s 0x00 = exec .idle s := by
  simp [feedByte, hr, hp, parserReset_inv]

/-- Short of one payload byte, a frame's last byte is due (R104, D23). -/
theorem inFrame_lastByteDue (hl : payload.length + 1 = LEN c) : (Parser.inFrame c payload).lastByteDue = true :=
  lastByteDue_iff.mpr (hl.trans (toNat_parserFrameStart_expectedLength lenTable_legal c).symm)

variable (hc : c ≠ 0x00) (hl : payload.length + 1 = LEN c)
include hc hl

/-- There the registers meet R25. -/
theorem inFrame_inv : (Parser.inFrame c payload).inv lenTable = true := by
  have hlen : (Parser.inFrame c payload).expectedLength.toNat = tableLen lenTable c :=
    toNat_parserFrameStart_expectedLength lenTable_legal c
  rw [inv_inMessage_iff rfl, hlen]
  exact ⟨hc, rfl, LEN_bounds c, Nat.lt_of_succ_le hl.le⟩

/-- A frame is placed with its last payload byte next, whatever follows it. -/
theorem placeFrame_frame (s : State) (more : List Byte) :
    placeFrame s (c :: (payload ++ b :: more)) =
      { s with wasReset := true, parser := Parser.inFrame c payload, input := InputCycle.feed b :: s.input } := by
  rw [placeFrame, if_neg hc, ← hl, Nat.add_sub_cancel, List.take_left, foldl_payloadAppend_frameStart]
  simp

/-- Feeding the last byte of a frame in those registers executes the frame (R104). -/
theorem feedByte_inFrame {s : State} {i : Instr} (hr : s.wasReset = true) (hp : s.parser = Parser.inFrame c payload)
    (hd : decode (c :: payload ++ [b]) = .ok (i, [])) : feedByte s b = exec i s := by
  have hm : s.parser.mode = .inMessage := by rw [hp]; rfl
  have hi : s.parser.inv lenTable = true := by rw [hp]; exact inFrame_inv hc hl
  have hlast : s.parser.lastByteDue = true := by rw [hp]; exact inFrame_lastByteDue hl
  simp only [feedByte, hr, hi, hm, hlast, Bool.true_eq_false, if_false, if_true]
  rw [execCompleted, hp, inFrame_fetched, hd]

end Placed

/-- Settles O18: the idle byte is fed at the boundary; any other frame is placed in the middle, and its last byte executes
it. -/
theorem placedFrameRunsNext : Obligations.PlacedFrameRunsNext := by
  intro s i h
  have hdec := decodeOfEncodeIsTheFrame i [] h
  obtain ⟨c, bytes, henc, hlen⟩ := frameLength i h
  rw [State.withFetchWord, tableWordBytes_frameWord, henc]
  rw [henc, List.append_nil] at hdec
  by_cases hc : c = 0x00
  · subst hc
    obtain rfl : Instr.idle = i := by cases hdec; rfl
    refine ⟨{ s with wasReset := true, parser := Parser.reset }, ?_, rfl, rfl, rfl⟩
    rw [List.cons_append, placeFrame_idle, step_feed rfl]
    exact feedByte_idle rfl rfl
  · rw [if_neg hc] at hlen
    obtain ⟨payload, b, rfl⟩ : ∃ payload b, bytes = payload ++ [b] :=
      ⟨_, _, (List.dropLast_concat_getLast (List.ne_nil_of_length_pos (by have := LEN_bounds c; omega))).symm⟩
    have hl : payload.length + 1 = LEN c := by simpa using hlen
    refine ⟨{ s with wasReset := true, parser := Parser.inFrame c payload }, ?_, rfl, rfl, rfl⟩
    rw [List.cons_append, List.append_assoc, List.singleton_append, placeFrame_frame hc hl, step_feed rfl]
    exact feedByte_inFrame hc hl rfl rfl hdec

end Sys2Proof.Machine

/-! SUPPORT. Proofs of the statements about the Frame Assembler (spec 40_frame_assembler.md): cycles without a byte,
the step as one of the four transitions, the meanings as frame completions, runs of many bytes, runs with gaps, and the
obligations settled from them. -/

namespace Sys2Proof.Machine

/-! ## Cycles without a byte -/

/-- A run of one step more is a run from where the first step ends. -/
theorem steps_of_step {s u : State} (h : step s = .next u) (n : Nat) : steps (n + 1) s = steps n u := by
  simp only [steps, h]

/-- Settles O9: both kinds of cycle hold the block. -/
theorem cycleWithoutByteHolds : Obligations.CycleWithoutByteHolds :=
  ⟨fun _ _ _ hs hr hv => (step_of_input_cons hs).trans (cycle_of_gap hr hv), fun _ hs => step_of_input_nil hs⟩

/-- One equation for both: whatever the next cycle is, if it presents neither `rst` nor a byte it is consumed and the block
holds (R110, log 2). -/
theorem step_of_no_byte {s : State} (h : ∀ c ∈ s.input.take 1, c.rst = false ∧ c.inValid = false) :
    step s = .next { s with input := s.input.tail, ports := Ports.zero } := by
  obtain ⟨gap, nothing⟩ := cycleWithoutByteHolds
  cases hs : s.input with
  | nil => rw [nothing s hs, List.tail_nil, ← hs]
  | cons c rest =>
    obtain ⟨hr, hv⟩ := h c (by simp [hs])
    exact gap s c rest hs hr hv

/-- Settles O10, by induction on the number of cycles. -/
theorem noTimeout : Obligations.NoTimeout := by
  intro n
  induction n with
  | zero => exact fun s _ => ⟨s, rfl, rfl, rfl, rfl, rfl⟩
  | succ n ih =>
    intro s h
    have hstep := step_of_no_byte (s := s) fun c hc => h c (List.take_subset_take_left _ (by omega) hc)
    have htail : ∀ c ∈ s.input.tail.take n, c.rst = false ∧ c.inValid = false := by
      have hcons : s.input.tail.take n = (s.input.take (n + 1)).tail := by
        rw [List.tail_take_eq_take_tail, Nat.add_sub_cancel]
      rw [hcons]
      exact fun c hc => h c (List.mem_of_mem_tail hc)
    obtain ⟨t, hrun, hp, hw, hr, hi⟩ := ih { s with input := s.input.tail, ports := Ports.zero } htail
    refine ⟨t, ?_, hp, hw, hr, by rw [hi, List.drop_tail]⟩
    exact (steps_of_step hstep n).trans hrun

/-! ## The step is one of the four transitions -/

/-- The assembler answers only in registers that meet R25. -/
theorem inv_of_feedWith {T : LengthTable} {p p' : Parser} {b : Byte} {o : Outputs}
    (h : feedWith T p b = some (p', o)) : p.inv T = true := by
  by_contra hinv
  simp [feedWith_eq_none (b := b) (.inr (Bool.eq_false_iff.mpr hinv))] at h

/-- What the assembler answers is what feeding the byte does (R100). -/
theorem feedByte_of_feedWith {s : State} {p : Parser} {b : Byte} {o : Outputs} (hw : s.wasReset = true)
    (h : feedWith lenTable s.parser b = some (p, o)) : feedByte s b = .next ({ s with parser := p }.emit o) := by
  obtain ⟨p', o', hfw, hnext⟩ := feedByte_eq_feedWith b ⟨hw, inv_of_feedWith h⟩
  obtain ⟨rfl, rfl⟩ : p = p' ∧ o = o' := by simpa [h] using hfw
  exact hnext

section FeedStep
variable {s t : State} {b : Byte} {rest : List InputCycle}

/-- The transition that is possible is the one taken: all four are `feedWith` on the registers (R100). -/
theorem FeedStep.feedByte_eq (hs : s.Inv) (h : FeedStep s b t) : feedByte s b = .next t := by
  obtain ⟨p, o, hfw, rfl⟩ := h.eq_feedWith hs
  exact feedByte_of_feedWith hs.1 hfw

/-- The step on a presented byte is the transition possible there, with the cycle consumed. -/
theorem FeedStep.step_eq (hs : s.Inv) (hi : s.input = InputCycle.feed b :: rest)
    (h : FeedStep { s with input := rest } b t) : step s = .next t :=
  (step_feed hi).trans (h.feedByte_eq (Inv_input rest hs))

/-- Every transition keeps R25, for what the assembler answers meets it. -/
theorem FeedStep.inv (hs : s.Inv) (h : FeedStep s b t) : t.Inv := by
  obtain ⟨p, o, hfw, rfl⟩ := h.eq_feedWith hs
  obtain ⟨p', o', hfw', hp, -⟩ := feedWith_total b lenTable_legal hs.2
  obtain ⟨rfl, -⟩ : p = p' ∧ o = o' := by simpa [hfw] using hfw'
  exact ⟨hs.1, hp⟩

/-- Only the completion of a frame goes from IN_MESSAGE to WAIT_FOR_START (R106). -/
theorem FeedStep.lastByteDue_of_leaves (h : FeedStep s b t) (hm : s.parser.mode = .inMessage)
    (ht : t.parser.mode = .waitForStart) : s.parser.lastByteDue = true := by
  cases h with
  | idle hw | start hw => simp [hm] at hw
  | payload => simp [hm] at ht
  | complete _ hl => exact hl

end FeedStep

/-- Settles O40: a cycle that feeds nothing keeps the registers or resets them, a fed byte takes one of the transitions. -/
theorem stepKeepsTheInvariant : Obligations.StepKeepsTheInvariant := by
  intro s t hs h
  rcases step_cases h with ⟨-, rfl⟩ | ⟨c, rest, -, ⟨-, rfl⟩ | ⟨-, -, rfl⟩ | ⟨-, -, -, hf⟩⟩
  · exact hs
  · exact resetMeetsTheInvariant
  · exact hs
  · exact hf.inv (Inv_input rest hs)

/-- Settles O44: each of the four transitions is `feedWith` at the canonical table, the completion through the frame its
bytes decode to. -/
theorem stepRefinesTheFrameAssembler : Obligations.StepRefinesTheFrameAssembler := by
  intro s b rest hs hi
  obtain ⟨p, o, hfw, hnext⟩ := feedByte_eq_feedWith b (Inv_input rest hs)
  exact ⟨p, o, hfw, (step_feed hi).trans hnext⟩

/-- Settles O41, by what the next cycle presents. -/
theorem stepIsTotal : Obligations.StepIsTotal := by
  intro s hs
  cases hi : s.input with
  | nil => exact ⟨_, step_of_input_nil hi⟩
  | cons c rest =>
    rw [step_of_input_cons hi]
    cases hr : c.rst with
    | true => exact ⟨_, cycle_of_rst hr⟩
    | false =>
      cases hv : c.inValid with
      | false => exact ⟨_, cycle_of_gap hr hv⟩
      | true =>
        obtain ⟨t, ht, -⟩ := feedByte_next (Inv_input rest hs) c.inByte
        exact ⟨t, (cycle_of_feed hr hv).trans ht⟩

/-- Settles O11: of the cycles that keep the block out of reset, only a fed byte can change the mode, and of its
transitions only the completion does so from IN_MESSAGE. -/
theorem onlyCompletionOrResetLeavesTheFrame : Obligations.OnlyCompletionOrResetLeavesTheFrame := by
  intro s t h hm ht
  rcases step_cases h with ⟨-, rfl⟩ | ⟨c, rest, hi, ⟨hr, -⟩ | ⟨-, -, rfl⟩ | ⟨-, hv, -, hf⟩⟩
  · simp [hm] at ht
  · exact ⟨c, rest, hi, .inl hr⟩
  · simp [hm] at ht
  · exact ⟨c, rest, hi, .inr ⟨hv, hf.lastByteDue_of_leaves hm ht⟩⟩

/-! ## The four transitions at the ports -/

/-- Before the last byte is due (R103, D23). -/
theorem lastByteDue_eq_false {p : Parser} (h : p.accumulatedPayload.length + 1 < p.expectedLength.toNat) :
    p.lastByteDue = false := by
  rw [Bool.eq_false_iff, ne_eq, lastByteDue_iff]
  exact h.ne

/-- Settles O12: the transition R101, and the meaning of `IDLE`. -/
theorem idleByteIsIgnored : Obligations.IdleByteIsIgnored :=
  ⟨fun _ _ hs hm hi => FeedStep.step_eq hs hi (.idle hm rfl), fun _ => rfl⟩

/-- Settles O13: the transition R102; the table's length fits its register. -/
theorem frameStartTransition : Obligations.FrameStartTransition := by
  intro s b rest hs hm hb hi
  exact ⟨_, FeedStep.step_eq hs hi (.start hm hb), rfl, hs.1, rfl, rfl,
    toNat_parserFrameStart_expectedLength lenTable_legal b, rfl, startOutputs_ports lenTable b, rfl⟩

/-- Settles O14: the transition R103. -/
theorem payloadByteTransition : Obligations.PayloadByteTransition :=
  fun _ _ _ hs hm hl hi => FeedStep.step_eq hs hi (.payload hm (lastByteDue_eq_false hl))

/-- Settles O15: the transition R104; the Message port shows the framed Message it completes. -/
theorem frameCompletionTransition : Obligations.FrameCompletionTransition := by
  intro s b rest hs hm hl hi
  have hdue : s.parser.lastByteDue = true := lastByteDue_iff.mpr hl
  obtain ⟨hc, hlen⟩ := completed_framed b hs.2 hm hdue
  obtain ⟨-, hexpected, -, -⟩ := inv_inMessage hs.2 hm
  obtain ⟨hvalid, hcmd, -, hp0, hp1, hp2, hdiag⟩ := completion_message_port (s.parser.completed b)
  obtain ⟨-, hmsgLen⟩ := (completionOutputs_ports_legal hc hlen).message_on hvalid
  have hlenPort : (completionOutputs (s.parser.completed b)).ports.msgLen.toNat = s.parser.expectedLength.toNat := by
    rw [hmsgLen, hcmd, hexpected]; rfl
  exact ⟨_, FeedStep.step_eq hs hi (.complete hm hdue), rfl, hs.1, rfl, hvalid, hcmd, hlenPort, hp0, hp1, hp2, hdiag,
    _, rfl, rfl, rfl⟩

/-- Settles O16: by whether the byte is the last due, R103 or R104. -/
theorem zeroInsideFrameIsPayload : Obligations.ZeroInsideFrameIsPayload := by
  intro s rest hs hm hi
  cases hl : s.parser.lastByteDue with
  | false =>
    refine ⟨_, FeedStep.step_eq hs hi (.payload hm hl), fun _ => ⟨hm, rfl⟩, fun hdue => ?_⟩
    simp [lastByteDue_iff.mpr hdue] at hl
  | true =>
    refine ⟨_, FeedStep.step_eq hs hi (.complete hm hl), fun hnot => ?_, fun _ => ⟨rfl, ?_⟩⟩
    · simp [lastByteDue_eq_false hnot] at hl
    · simp [State.messages, completionOutputs, Parser.completed]

/-! ## A frame's meaning is the completion of its Message -/

/-- Every instruction but `IDLE` completes its Message, from every state (R104, log 1). -/
theorem exec_of_messageOf {i : Instr} {m : Message} (h : messageOf i = some m) (s : State) :
    exec i s = .next (s.frameComplete m) := by
  cases i with
  | idle => cases h
  | depth | awa | aws | stw | wtemp | log | hdg | unk => cases h; rfl

/-- Only `IDLE` has no Message (R101). -/
theorem messageOf_eq_none_iff {i : Instr} : messageOf i = none ↔ i = .idle := by
  cases i <;> simp [messageOf]

/-- Settles O25: `IDLE` adds the empty entry, every other instruction completes its Message. -/
theorem everyInstructionFrame : Obligations.EveryInstructionFrame := by
  intro i s
  cases hm : messageOf i with
  | none =>
    obtain rfl := messageOf_eq_none_iff.mp hm
    exact ⟨_, rfl, rfl, rfl, fun _ => rfl, fun h => absurd rfl h, Outputs.quiet, rfl, rfl, rfl, rfl⟩
  | some m =>
    have hidle : i ≠ .idle := fun h => by simp [messageOf_eq_none_iff.mpr h] at hm
    exact ⟨_, exec_of_messageOf hm s, rfl, rfl, fun h => absurd h hidle, fun _ => rfl, completionOutputs m,
      rfl, rfl, rfl, rfl⟩

/-- What decodes in a state that meets R25 is the idle byte in WAIT_FOR_START, or the frame whose last byte is due in
IN_MESSAGE; its meaning is that transition (R100, R101, R104). -/
theorem feedByte_of_decode {s : State} {b : Byte} {i : Instr} {more : List Byte} (hs : s.Inv)
    (h : decode (s.parser.fetched ++ [b]) = .ok (i, more)) : feedByte s b = exec i s := by
  cases hm : s.parser.mode with
  | waitForStart =>
    have hd : decode [b] = .ok (i, more) := by simpa [Parser.fetched, hm] using h
    by_cases hb : b = 0x00
    · subst hb
      cases hd
      exact FeedStep.feedByte_eq hs (.idle hm rfl)
    · rw [decode_of_length_lt_LEN (rest := []) hb (LEN_bounds b).1] at hd
      cases hd
  | inMessage =>
    obtain ⟨hc, -⟩ := inv_inMessage hs.2 hm
    have hd : decode (s.parser.currentCommand :: (s.parser.accumulatedPayload ++ [b])) = .ok (i, more) := by
      simpa [Parser.fetched, hm] using h
    cases hl : s.parser.lastByteDue with
    | false =>
      obtain ⟨-, hexpected, -, hcount⟩ := inv_inMessage (payloadAppend_inv b hs.2 hm hl) hm
      have hshort : (s.parser.accumulatedPayload ++ [b]).length < LEN s.parser.currentCommand :=
        hcount.trans_eq hexpected
      rw [decode_of_length_lt_LEN hc hshort] at hd
      cases hd
    | true =>
      obtain ⟨-, hlen⟩ := completed_framed b hs.2 hm hl
      obtain ⟨i', hd', -, -, -, hexec⟩ := decode_completed hc hlen
      obtain ⟨rfl, -⟩ : i' = i ∧ [] = more := by simpa [Parser.completed, hd] using hd'.symm
      exact (FeedStep.feedByte_eq hs (.complete hm hl)).trans (hexec s).symm

/-- Settles O17: the meaning of what decodes is the transition that feeding the byte takes. -/
theorem stepRunsTheDecodedInstruction : Obligations.StepRunsTheDecodedInstruction :=
  fun _ _ rest _ _ hs hi hd => (step_feed hi).trans (feedByte_of_decode (Inv_input rest hs) hd)

/-! ## Runs of fed bytes -/

/-- The Frame Assembler at the canonical table fed several bytes one after another: the registers before, the bytes, the
registers after, and the outputs of each byte. -/
inductive FeedRun : Parser → List Byte → Parser → List Outputs → Prop where
  | nil (p : Parser) : FeedRun p [] p []
  | cons {p p' q : Parser} {b : Byte} {bs : List Byte} {o : Outputs} {os : List Outputs}
      (h : feedWith lenTable p b = some (p', o)) (tail : FeedRun p' bs q os) : FeedRun p (b :: bs) q (o :: os)

/-- Two runs, the second from where the first ends, are one. -/
theorem FeedRun.append {p q r : Parser} {bs bs' : List Byte} {os os' : List Outputs} (h : FeedRun p bs q os)
    (h' : FeedRun q bs' r os') : FeedRun p (bs ++ bs') r (os ++ os') := by
  induction h with
  | nil => exact h'
  | cons hb _ ih => exact .cons hb (ih h')

/-- One byte is a run. -/
theorem FeedRun.single {p p' : Parser} {b : Byte} {o : Outputs} (h : feedWith lenTable p b = some (p', o)) :
    FeedRun p [b] p' [o] := .cons h (.nil p')

/-- The block runs as the assembler does, one step a byte: the refinement of a step, along a run. -/
theorem FeedRun.exists_steps {p q : Parser} {bytes : List Byte} {os : List Outputs} (h : FeedRun p bytes q os)
    {s : State} {rest : List InputCycle} (hw : s.wasReset = true) (hp : s.parser = p)
    (hi : s.input = feeds bytes ++ rest) :
    ∃ t, steps bytes.length s = .next t ∧ t.wasReset = true ∧ t.parser = q ∧ t.input = rest ∧
      t.results = s.results ++ os := by
  induction h generalizing s with
  | nil p => exact ⟨s, rfl, hw, hp, hi, (List.append_nil _).symm⟩
  | @cons _ p' _ _ bs o _ hb _ ih =>
    subst hp
    have hstep := (step_feed hi).trans (feedByte_of_feedWith hw hb)
    obtain ⟨t, hrun, hw', hq, hrest, hres⟩ :=
      ih (s := { s with input := feeds bs ++ rest, parser := p' }.emit o) hw rfl rfl
    exact ⟨t, (steps_of_step hstep _).trans hrun, hw', hq, hrest, by simp [hres]⟩

/-- The idle byte between frames (R101). -/
theorem FeedRun.idle : FeedRun Parser.reset [0x00] Parser.reset [Outputs.quiet] :=
  .single (feedWith_idle lenTable_legal (parserReset_inv _) rfl rfl)

/-- The length register in the middle of a frame (R23, R102). -/
theorem inFrame_expectedLength (c : Byte) (payload : List Byte) :
    (Parser.inFrame c payload).expectedLength.toNat = LEN c :=
  toNat_parserFrameStart_expectedLength lenTable_legal c

section Frame
variable {c : Byte} (hc : c ≠ 0x00)
include hc

/-- Short of the table's length, the registers in the middle of a frame meet R25. -/
theorem inFrame_inv_of_lt {payload : List Byte} (hl : payload.length < LEN c) :
    (Parser.inFrame c payload).inv lenTable = true := by
  rw [inv_inMessage_iff rfl, inFrame_expectedLength]
  exact ⟨hc, rfl, LEN_bounds c, hl⟩

/-- The command byte at the boundary (R102). -/
theorem FeedRun.start : FeedRun Parser.reset [c] (Parser.inFrame c []) [startOutputs lenTable c] :=
  .single (feedWith_start lenTable_legal (parserReset_inv _) rfl hc)

/-- Payload bytes that do not reach the table's length are appended and output nothing (R103). -/
theorem FeedRun.payload {pre bs : List Byte} (hl : pre.length + bs.length < LEN c) :
    FeedRun (Parser.inFrame c pre) bs (Parser.inFrame c (pre ++ bs)) (List.replicate bs.length Outputs.quiet) := by
  induction bs generalizing pre with
  | nil => rw [List.append_nil]; exact .nil _
  | cons b bs ih =>
    rw [List.length_cons] at hl
    have hlt : pre.length + 1 < (Parser.inFrame c pre).expectedLength.toNat := by
      rw [inFrame_expectedLength]
      omega
    have hinv : (Parser.inFrame c pre).inv lenTable = true := inFrame_inv_of_lt hc (by omega)
    rw [List.append_cons]
    exact .cons (feedWith_payload lenTable_legal hinv rfl (lastByteDue_eq_false hlt))
      (ih (pre := pre ++ [b]) (by simp; omega))

/-- The last payload byte completes the Message (R104). -/
theorem FeedRun.last {payload : List Byte} {b : Byte} (hl : payload.length + 1 = LEN c) :
    FeedRun (Parser.inFrame c payload) [b] Parser.reset
      [completionOutputs { command := c, payload := payload ++ [b] }] :=
  .single (feedWith_complete lenTable_legal (inFrame_inv hc hl) rfl (inFrame_lastByteDue hl))

/-- A whole frame, from boundary to boundary (R113(a), R108). -/
theorem FeedRun.frame {payload : List Byte} (hl : payload.length = LEN c) :
    FeedRun Parser.reset (c :: payload) Parser.reset
      (startOutputs lenTable c :: (List.replicate (payload.length - 1) Outputs.quiet ++
        [completionOutputs { command := c, payload := payload }])) := by
  have hpos := (LEN_bounds c).1
  obtain ⟨front, b, rfl⟩ : ∃ front b, payload = front ++ [b] :=
    ⟨_, _, (List.dropLast_concat_getLast (List.ne_nil_of_length_pos (by omega))).symm⟩
  have hfront : front.length + 1 = LEN c := by simpa using hl
  have hbefore := FeedRun.payload hc (bs := front) (pre := []) (by simp; omega)
  simpa using (FeedRun.start hc).append (hbefore.append (FeedRun.last hc hfront (b := b)))

end Frame

/-- Settles O46: the run of a whole frame. -/
theorem oneFrameOneMessage : Obligations.OneFrameOneMessage := by
  intro s c payload rest ⟨hw, hp⟩ hc hl hi
  obtain ⟨t, hrun, hw', hp', hrest, hres⟩ := (FeedRun.frame hc hl).exists_steps hw hp hi
  exact ⟨t, by rwa [Nat.add_comm], ⟨hw', hp'⟩, hrest, hres⟩

/-! ## Streams of frames -/

/-- No two decoders of the registry match the same command (R121, R124). -/
theorem registry_pairwise_cmd_ne : registry.Pairwise (fun d d' => d.cmd ≠ d'.cmd) := by
  simp [registry, depthDecoder, awaDecoder, awsDecoder, stwDecoder, wtempDecoder, logDecoder, hdgDecoder]

/-- A decoder that gives a Reading matches the Message's command (R130). -/
theorem command_of_reading {d : Decoder} {m : Message} {r : Reading} (h : (d.onMessage m).reading = some r) :
    m.command = d.cmd := by
  cases hd : d.onMessage m with
  | mismatch | undersized => simp [hd, ListenerResult.reading] at h
  | emitted r' => exact (onMessage_emitted hd).1

/-- So at most one decoder emits for a Message (R124). -/
theorem readings_length_le_one (m : Message) : (readings m).length ≤ 1 := by
  have hpair : (readings m).Pairwise fun _ _ => False := by
    rw [readings, dispatch, List.filterMap_map]
    refine registry_pairwise_cmd_ne.filterMap _ fun d d' hne r hr r' hr' => hne ?_
    rw [← command_of_reading hr, ← command_of_reading hr']
  match readings m, hpair with
  | [], _ => exact Nat.zero_le 1
  | [_], _ => exact Nat.le_refl 1
  | _ :: r' :: _, h => exact ((List.pairwise_cons.mp h).1 r' (List.mem_cons_self ..)).elim

/-- The Reading of a completion is all its Message's Readings. -/
theorem toList_head?_readings (m : Message) : (readings m).head?.toList = readings m := by
  rw [← List.take_one, List.take_of_length_le (readings_length_le_one m)]

/-- A well-formed instruction with a Message is the frame of that Message (R70, R71). -/
theorem encode_of_messageOf {i : Instr} {m : Message} (h : i.wellFormed = true) (hm : messageOf i = some m) :
    encode i = m.command :: m.payload ∧ m.command ≠ 0x00 ∧ m.payload.length = LEN m.command := by
  cases i with
  | idle => cases hm
  | unk c p0 p1 =>
    obtain ⟨hc, -⟩ := (unk_wellFormed_iff c p0 p1).mp h
    obtain ⟨_, _, henc, hlen⟩ := frameLength _ h
    cases henc
    cases hm
    exact ⟨rfl, hc, by rwa [if_neg hc] at hlen⟩
  | depth | awa | aws | stw | wtemp | log | hdg =>
    cases hm
    exact ⟨rfl, by simp, rfl⟩

/-- The bytes of one instruction run from boundary to boundary; their outputs are its Message and its Reading, if any. -/
theorem FeedRun.instr {i : Instr} (h : i.wellFormed = true) :
    ∃ os, FeedRun Parser.reset (encode i) Parser.reset os ∧ os.filterMap Outputs.message = (messageOf i).toList ∧
      os.filterMap Outputs.reading = (messageOf i).toList.flatMap readings := by
  cases hm : messageOf i with
  | none =>
    obtain rfl := messageOf_eq_none_iff.mp hm
    exact ⟨_, FeedRun.idle, rfl, rfl⟩
  | some m =>
    obtain ⟨henc, hc, hl⟩ := encode_of_messageOf h hm
    refine ⟨_, henc ▸ FeedRun.frame hc hl, ?_, ?_⟩
    · simp [startOutputs, completionOutputs, Outputs.quiet]
    · rw [Option.toList_some, List.flatMap_singleton, ← toList_head?_readings]
      cases hr : (readings m).head? <;> simp [startOutputs, completionOutputs, Outputs.quiet, hr]

/-- So do the bytes of any list of instructions, with the Messages and Readings in the instructions' order (R113(d)). -/
theorem FeedRun.instrs {is : List Instr} (h : ∀ i ∈ is, i.wellFormed = true) :
    ∃ os, FeedRun Parser.reset (is.flatMap encode) Parser.reset os ∧
      os.filterMap Outputs.message = is.filterMap messageOf ∧
      os.filterMap Outputs.reading = (is.filterMap messageOf).flatMap readings := by
  induction is with
  | nil => exact ⟨[], .nil _, rfl, rfl⟩
  | cons i is ih =>
    obtain ⟨hi, his⟩ := List.forall_mem_cons.mp h
    obtain ⟨os, hrun, hmsg, hrd⟩ := FeedRun.instr hi
    obtain ⟨os', hrun', hmsg', hrd'⟩ := ih his
    have hcons : (i :: is).filterMap messageOf = (messageOf i).toList ++ is.filterMap messageOf := by
      cases hm : messageOf i <;> simp [hm]
    refine ⟨os ++ os', hrun.append hrun', ?_, ?_⟩
    · rw [hcons, List.filterMap_append, hmsg, hmsg']
    · rw [hcons, List.filterMap_append, List.flatMap_append, hrd, hrd']

/-- Settles O47: the run of the stream's bytes, by induction on the instructions. -/
theorem streamOfFramesGivesItsMessages : Obligations.StreamOfFramesGivesItsMessages := by
  intro is s rest hwf ⟨hw, hp⟩ hi
  obtain ⟨os, hfeeds, hmsg, hrd⟩ := FeedRun.instrs hwf
  obtain ⟨t, hrun, hw', hp', hrest, hres⟩ := hfeeds.exists_steps hw hp hi
  refine ⟨t, hrun, ⟨hw', hp'⟩, hrest, ?_, ?_⟩
  · rw [State.messages, hres, List.filterMap_append, hmsg]; rfl
  · rw [State.readingsOut, hres, List.filterMap_append, hrd]; rfl

/-! ## Runs with gaps -/

/-- The cycle presents a byte or `rst`: it is no gap (R110, R180). -/
def InputCycle.presents (c : InputCycle) : Bool := c.rst || c.inValid

/-- Two states that a run cannot tell apart but by its input: the same registers, start-up condition and results. The ports
show only the last cycle. -/
structure SameRun (s s' : State) : Prop where
  parser : s'.parser = s.parser
  wasReset : s'.wasReset = s.wasReset
  results : s'.results = s.results

/-- What a run cannot tell apart step by step, it cannot tell apart. -/
theorem SameRun.trans {s s' s'' : State} (h : SameRun s s') (h' : SameRun s' s'') : SameRun s s'' :=
  ⟨h'.parser.trans h.parser, h'.wasReset.trans h.wasReset, h'.results.trans h.results⟩

/-- A run of one step more starts with a step. -/
theorem exists_step_of_steps {n : Nat} {s t : State} (h : steps (n + 1) s = .next t) :
    ∃ u, step s = .next u ∧ steps n u = .next t := by
  cases hu : step s with
  | next u => exact ⟨u, rfl, (steps_of_step hu n).symm.trans h⟩
  | fault r => cases r
  | refused r => simp [steps, hu] at h

/-- A transition of `feed` consumes no further cycle. -/
theorem FeedStep.input_eq {s t : State} {b : Byte} (h : FeedStep s b t) : t.input = s.input := by
  cases h <;> rfl

/-- A step consumes the cycle it runs. -/
theorem input_of_step {s u : State} (h : step s = .next u) : u.input = s.input.tail := by
  rcases step_cases h with ⟨hs, rfl⟩ | ⟨c, rest, hs, ⟨-, rfl⟩ | ⟨-, -, rfl⟩ | ⟨-, -, -, hf⟩⟩
  · simp [hs]
  · simp [hs]
  · simp [hs]
  · simp [hs, hf.input_eq]

/-- The same cycle, reset, byte or gap, has the same effect in both states (R33, R180). -/
theorem SameRun.exists_step {s s' u : State} {c : InputCycle} {rest rest' : List InputCycle} (h : SameRun s s')
    (hi : s.input = c :: rest) (hi' : s'.input = c :: rest') (hu : step s = .next u) :
    ∃ u', step s' = .next u' ∧ SameRun u u' := by
  obtain ⟨hp, hw, hr⟩ := h
  have hcycle : step s' = cycle { s' with input := rest' } c := step_of_input_cons hi'
  rcases step_cases hu with ⟨hnil, -⟩ | ⟨c', rest₁, hi₁, hcases⟩
  · simp [hi] at hnil
  obtain ⟨rfl, rfl⟩ : c = c' ∧ rest = rest₁ := by simpa [hi] using hi₁
  rcases hcases with ⟨hrst, rfl⟩ | ⟨hrst, hv, rfl⟩ | ⟨hrst, hv, hinv, hf⟩
  · exact ⟨_, hcycle.trans (cycle_of_rst hrst), rfl, rfl, rfl⟩
  · exact ⟨_, hcycle.trans (cycle_of_gap hrst hv), hp, hw, hr⟩
  · obtain ⟨p, o, hfw, rfl⟩ := hf.eq_feedWith (Inv_input rest hinv)
    have hnext : feedByte { s' with input := rest' } c.inByte = _ :=
      feedByte_of_feedWith (hw.trans hinv.1) (hp ▸ hfw)
    exact ⟨_, hcycle.trans ((cycle_of_feed hrst hv).trans hnext), rfl, hw, congrArg (· ++ [o]) hr⟩

/-- A cycle without a byte changes nothing a run can tell (R110). -/
theorem sameRun_of_gap {s u : State} {c : InputCycle} {rest : List InputCycle} (hi : s.input = c :: rest)
    (hgap : c.presents = false) (hu : step s = .next u) : SameRun u s := by
  obtain ⟨hr, hv⟩ : c.rst = false ∧ c.inValid = false := by simpa [InputCycle.presents] using hgap
  cases (cycleWithoutByteHolds.1 s c rest hi hr hv).symm.trans hu
  exact ⟨rfl, rfl, rfl⟩

/-- Leaving out the gaps of the input, by induction on it. -/
theorem SameRun.exists_steps_filter {input : List InputCycle} {s s' t : State} (h : SameRun s s')
    (hi : s.input = input) (hi' : s'.input = input.filter InputCycle.presents)
    (hrun : steps input.length s = .next t) :
    ∃ t', steps (input.filter InputCycle.presents).length s' = .next t' ∧ SameRun t t' := by
  induction input generalizing s s' with
  | nil => cases hrun; exact ⟨s', rfl, h⟩
  | cons c rest ih =>
    obtain ⟨u, hu, hrun⟩ := exists_step_of_steps hrun
    have hui : u.input = rest := by rw [input_of_step hu, hi, List.tail_cons]
    cases hc : c.presents with
    | true =>
      rw [List.filter_cons_of_pos hc] at hi' ⊢
      obtain ⟨u', hu', h'⟩ := h.exists_step hi hi' hu
      have hui' : u'.input = rest.filter InputCycle.presents := by rw [input_of_step hu', hi', List.tail_cons]
      obtain ⟨t', hrun', ht⟩ := ih h' hui hui' hrun
      exact ⟨t', (steps_of_step hu' _).trans hrun', ht⟩
    | false =>
      rw [List.filter_cons_of_neg (by simp [hc])] at hi' ⊢
      exact ih ((sameRun_of_gap hi hc hu).trans h) hui hi' hrun

/-- Settles O48: the run without the gaps starts from the same state but for its input. -/
theorem gapsNeverMatter : Obligations.GapsNeverMatter := by
  intro s t hrun
  have hsame : SameRun s { s with input := s.input.filter InputCycle.presents } := ⟨rfl, rfl, rfl⟩
  obtain ⟨t', hrun', hp, hw, hr⟩ := hsame.exists_steps_filter rfl rfl hrun
  exact ⟨t', hrun', hp, hw, hr⟩

end Sys2Proof.Machine

/-! SUPPORT. Proofs of the statements about the Message Dispatcher (spec 41_dispatch.md): how many Readings a Message gets. -/

namespace Sys2Proof.Machine

/-- Settles O33: the decoders' commands are pairwise different, and none of them is an unlisted command. -/
theorem atMostOneReading : Obligations.AtMostOneReading :=
  fun m => ⟨readings_length_le_one m, readings_unknown⟩

end Sys2Proof.Machine

/-! SUPPORT. Proofs of the statements about the payload decoders (spec 42_decoders.md): each decoder on any Message, which
framed Messages give a Reading, the range of a mantissa, and the meanings of the frames with their Readings. -/

namespace Sys2Proof.Machine

/-! ## What a decoder emits -/

/-- `on_message` of a decoder whose formula's value is known (R130). -/
theorem onMessage_of_formula {d : Decoder} {m : Message} {n : Int} (hf : d.formula m = n) :
    d.onMessage m =
      if m.command ≠ d.cmd then .mismatch
      else if m.payload.length < d.minLen then .undersized
      else .emitted { cmd := d.cmd, mantissa := n } := by
  rw [Decoder.onMessage, hf]

/-- A Message of the decoder's own command that is below its minimum is skipped (R130, R162). -/
theorem onMessage_of_lt_minLen {d : Decoder} {m : Message} (hc : m.command = d.cmd) (hl : m.payload.length < d.minLen) :
    d.onMessage m = .undersized :=
  (if_neg (not_not.mpr hc)).trans (if_pos hl)

section Emitted

variable {d : Decoder} {m : Message} {r : Reading} (h : d.onMessage m = .emitted r)
include h

/-- An emitted Reading's mantissa is the decoder's formula (R130). -/
theorem mantissa_of_emitted : r.mantissa = d.formula m := by
  obtain ⟨-, -, rfl⟩ := onMessage_emitted h
  rfl

/-- Its exact value is the formula scaled by the exponent of the decoder's command (R131). -/
theorem value_of_emitted : r.value = (d.formula m : Rat) / 10 ^ rdExp d.cmd := by
  obtain ⟨-, -, rfl⟩ := onMessage_emitted h
  rfl

/-- Where the exponent is 1 and the formula is a raw integer, the value is that many tenths (R131). -/
theorem value_of_emitted_tenths {raw : Nat} (hk : rdExp d.cmd = 1) (hf : d.formula m = raw) :
    r.value = (raw : Rat) * (1 / 10) := by
  rw [value_of_emitted h, hk, hf, Int.cast_natCast, pow_one, div_eq_mul_one_div]

end Emitted

/-! ## The seven formulas as sums of the payload bytes -/

section Formulas

variable (m : Message)

theorem depthDecoder_formula : depthDecoder.formula m = ((m.p 0).toNat * 256 + (m.p 1).toNat : Int) * 3048 := by
  simp [depthDecoder, raw16_eq]

theorem awaDecoder_formula : awaDecoder.formula m = 2 * ((m.p 0).toNat : Int) - 180 := by
  simp [awaDecoder, raw8, mul_comm]

theorem awsDecoder_formula : awsDecoder.formula m = ((m.p 0).toNat : Int) * 256 + (m.p 1).toNat := by
  simp [awsDecoder, raw16_eq]

theorem stwDecoder_formula :
    stwDecoder.formula m = (((m.p 0).toNat % 128 : Nat) : Int) * 256 + (m.p 1).toNat := by
  simp [stwDecoder, raw15_eq]

theorem wtempDecoder_formula : wtempDecoder.formula m = ((m.p 0).toNat : Int) * 256 + (m.p 1).toNat - 100 := by
  simp [wtempDecoder, raw16_eq]

theorem logDecoder_formula :
    logDecoder.formula m = ((m.p 0).toNat : Int) * 65536 + (m.p 1).toNat * 256 + (m.p 2).toNat := by
  simp [logDecoder, raw24_eq]

theorem hdgDecoder_formula : hdgDecoder.formula m = ((m.p 0).toNat : Int) * 256 + (m.p 1).toNat := by
  simp [hdgDecoder, raw16_eq]

end Formulas

end Sys2Proof.Machine

/-! ## Each decoder on any Message -/

-- A namespace of its own: in `Sys2Proof.Machine` the names of these theorems are the decoders'.
namespace Sys2Proof.AnyMessage

open Sys2Proof.Machine

/-- Settles O26: the exponent 5 and the factor 3048 are 0.1 times 0.3048. -/
theorem depthDecoder : Obligations.DepthDecoder := by
  refine ⟨fun m => onMessage_of_formula (depthDecoder_formula m), fun m r h => ?_, rfl⟩
  have hv : r.value = ((raw16 (m.p 0) (m.p 1) * 3048 : Int) : Rat) / 10 ^ 5 := value_of_emitted h
  change r.value = (raw16 (m.p 0) (m.p 1) : Rat) * (1 / 10) * (3048 / 10000)
  rw [hv]
  push_cast
  ring

/-- Settles O27: the exponent is 0, so the value is the mantissa; its range is that of one byte. -/
theorem awaDecoder : Obligations.AwaDecoder := by
  refine ⟨fun m => onMessage_of_formula (awaDecoder_formula m), fun m r h => ?_, rfl⟩
  have hv : r.value = ((raw8 (m.p 0) * 2 - 180 : Int) : Rat) / 10 ^ 0 := value_of_emitted h
  have hm : r.mantissa = 2 * ((m.p 0).toNat : Int) - 180 := (mantissa_of_emitted h).trans (awaDecoder_formula m)
  have hp : (m.p 0).toNat < 256 := (m.p 0).isLt
  exact ⟨by simp [hv, raw8], by omega, by omega, by omega⟩

/-- Settles O28: tenths of the raw 16 bits. -/
theorem awsDecoder : Obligations.AwsDecoder :=
  ⟨fun m => onMessage_of_formula (awsDecoder_formula m), fun _ _ h => value_of_emitted_tenths h rfl rfl, rfl⟩

/-- Settles O29: tenths of the raw 15 bits. -/
theorem stwDecoder : Obligations.StwDecoder := by
  refine ⟨fun m => onMessage_of_formula (stwDecoder_formula m), fun m r h => ?_, rfl⟩
  have hm : r.mantissa = (raw15 (m.p 0) (m.p 1) : Int) := mantissa_of_emitted h
  exact ⟨value_of_emitted_tenths h rfl rfl, hm ▸ Int.ofNat_le.mpr (raw15_le _ _)⟩

/-- Settles O30: 100 of the mantissa's tenths are the 10 subtracted. -/
theorem wtempDecoder : Obligations.WtempDecoder := by
  refine ⟨fun m => onMessage_of_formula (wtempDecoder_formula m), fun m r h => ?_, rfl⟩
  have hv : r.value = ((raw16 (m.p 0) (m.p 1) - 100 : Int) : Rat) / 10 ^ 1 := value_of_emitted h
  change r.value = (raw16 (m.p 0) (m.p 1) : Rat) * (1 / 10) - 10
  rw [hv]
  push_cast
  ring

/-- Settles O31: tenths of the raw 24 bits; two framed bytes are below the minimum of three. -/
theorem logDecoder : Obligations.LogDecoder :=
  ⟨fun m => onMessage_of_formula (logDecoder_formula m), fun _ _ h => value_of_emitted_tenths h rfl rfl,
    fun _ hc hl => onMessage_of_lt_minLen hc (hl.trans_lt (by decide))⟩

/-- Settles O32: tenths of the raw 16 bits; one framed byte is below the minimum of two. -/
theorem hdgDecoder : Obligations.HdgDecoder :=
  ⟨fun m => onMessage_of_formula (hdgDecoder_formula m), fun _ _ h => value_of_emitted_tenths h rfl rfl,
    fun _ hc hl => onMessage_of_lt_minLen hc (hl.trans_lt (by decide))⟩

end Sys2Proof.AnyMessage

namespace Sys2Proof.Machine

/-! ## What every decoder of the registry keeps -/

/-- The seven decoders, as cases (R121). -/
theorem mem_registry_iff {d : Decoder} :
    d ∈ registry ↔ d = depthDecoder ∨ d = awaDecoder ∨ d = awsDecoder ∨ d = stwDecoder ∨ d = wtempDecoder ∨
      d = logDecoder ∨ d = hdgDecoder := by
  simp [registry]

/-- A formula reads only the payload bytes below its decoder's minimum (R130, R141). -/
theorem formula_congr {d : Decoder} (hd : d ∈ registry) {m m' : Message} (h : ∀ i < d.minLen, m.p i = m'.p i) :
    d.formula m = d.formula m' := by
  rcases mem_registry_iff.mp hd with rfl | rfl | rfl | rfl | rfl | rfl | rfl
  · simp only [depthDecoder_formula, h 0 (by decide), h 1 (by decide)]
  · simp only [awaDecoder_formula, h 0 (by decide)]
  · simp only [awsDecoder_formula, h 0 (by decide), h 1 (by decide)]
  · simp only [stwDecoder_formula, h 0 (by decide), h 1 (by decide)]
  · simp only [wtempDecoder_formula, h 0 (by decide), h 1 (by decide)]
  · simp only [logDecoder_formula, h 0 (by decide), h 1 (by decide), h 2 (by decide)]
  · simp only [hdgDecoder_formula, h 0 (by decide), h 1 (by decide)]

/-- Settles O36: the formula reads only bytes both payloads share, and the length both reach is the minimum. -/
theorem bytesBeyondTheMinimumAreIgnored : Obligations.BytesBeyondTheMinimumAreIgnored := by
  intro d hd cmd payload extra extra' hlen
  have hl (e : List Byte) : ¬ (payload ++ e).length < d.minLen := by simp [← hlen]
  have hf : d.formula ⟨cmd, payload ++ extra⟩ = d.formula ⟨cmd, payload ++ extra'⟩ := by
    refine formula_congr hd fun i hi => ?_
    rw [← hlen] at hi
    exact (List.getD_append _ _ _ _ hi).trans (List.getD_append _ _ _ _ hi).symm
  constructor
  · rw [onMessage_of_formula hf, Decoder.onMessage, if_neg (hl extra), if_neg (hl extra')]
  · exact fun hc => exists_emitted_iff.mpr ⟨hc, Nat.not_lt.mp (hl extra)⟩

/-- Every formula's value is in the range of R139: the least is that of `AWA`, the greatest that of `DEPTH`. -/
theorem formula_range {d : Decoder} (hd : d ∈ registry) (m : Message) :
    -180 ≤ d.formula m ∧ d.formula m ≤ 199750680 := by
  have h0 := (m.p 0).isLt
  have h1 := (m.p 1).isLt
  have h2 := (m.p 2).isLt
  rcases mem_registry_iff.mp hd with rfl | rfl | rfl | rfl | rfl | rfl | rfl
  · rw [depthDecoder_formula]; omega
  · rw [awaDecoder_formula]; omega
  · rw [awsDecoder_formula]; omega
  · rw [stwDecoder_formula]; omega
  · rw [wtempDecoder_formula]; omega
  · rw [logDecoder_formula]; omega
  · rw [hdgDecoder_formula]; omega

/-- Settles O35: a Reading's mantissa is a formula's value, and the range lies within 32-bit two's complement. -/
theorem mantissaFitsThePort : Obligations.MantissaFitsThePort := by
  intro m r h
  obtain ⟨d, hd, he⟩ := mem_readings h
  obtain ⟨hlo, hhi⟩ := mantissa_of_emitted he ▸ formula_range hd m
  exact ⟨hlo, hhi, BitVec.toInt_ofInt_eq_self (by decide) (by omega) (by omega)⟩

/-! ## The Readings of a Message -/

/-- A Message's first Reading is what some decoder of the registry emits: there is no second one (R120, R124). -/
theorem head?_readings_eq_some_iff {m : Message} {r : Reading} :
    (readings m).head? = some r ↔ ∃ d ∈ registry, d.onMessage m = .emitted r := by
  calc (readings m).head? = some r
      ↔ r ∈ (readings m).head?.toList := Option.mem_toList.symm
    _ ↔ r ∈ readings m := by rw [toList_head?_readings]
    _ ↔ _ := mem_readings_iff

/-- A framed Message of any other command than the five of R143 has no Reading (R142). -/
theorem readings_eq_nil_of_framed {m : Message} (hl : m.payload.length = LEN m.command)
    (hc : m.command ∉ ([0x01, 0x20, 0x21, 0x22, 0x23] : List Byte)) : readings m = [] := by
  rw [← readings_head_isSome_iff hl, Bool.not_eq_true, Option.isSome_eq_false_iff, Option.isNone_iff_eq_none] at hc
  exact List.head?_eq_none_iff.mp hc

/-- Settles O34: a framed Message of the five commands has a first Reading, which is its only one. -/
theorem framedReadings : Obligations.FramedReadings := by
  intro m _ hl
  split
  next hc =>
    obtain ⟨r, hr⟩ := Option.isSome_iff_exists.mp ((readings_head_isSome_iff hl).mpr hc)
    exact ⟨r, by simpa [hr] using (toList_head?_readings m).symm, cmd_of_mem_readings (List.mem_of_mem_head? hr)⟩
  next hc => exact readings_eq_nil_of_framed hl hc

/-! ## The meanings of the frames -/

section Exec

variable {i : Instr} {m : Message} (hi : messageOf i = some m) (s : State)
include hi

/-- A frame's meaning empties the registers and outputs its Message with its Reading, if it has one (R104). -/
theorem exec_of_head?_readings {ro : Option Reading} (hr : (readings m).head? = ro) :
    exec i s = .next ({ s with parser := Parser.reset }.emit { message := some m, reading := ro, diagUnknown := none }) := by
  rw [exec_of_messageOf hi, State.frameComplete, completionOutputs, hr]

/-- So it outputs the Reading of a decoder that emits. -/
theorem exec_of_emitted {d : Decoder} {r : Reading} (hd : d ∈ registry) (he : d.onMessage m = .emitted r) :
    exec i s =
      .next ({ s with parser := Parser.reset }.emit { message := some m, reading := some r, diagUnknown := none }) :=
  exec_of_head?_readings hi s (head?_readings_eq_some_iff.mpr ⟨d, hd, he⟩)

/-- And no Reading where there is none. -/
theorem exec_of_readings_eq_nil (hr : readings m = []) :
    exec i s =
      .next ({ s with parser := Parser.reset }.emit { message := some m, reading := none, diagUnknown := none }) :=
  exec_of_head?_readings hi s (List.head?_eq_none_iff.mpr hr)

end Exec

/-- Settles O19: the `DEPTH` decoder emits from the three payload bytes. -/
theorem execDepthCompletes : Obligations.ExecDepthCompletes :=
  fun p0 p1 p2 s => exec_of_emitted (m := ⟨0x01, [p0, p1, p2]⟩) (d := depthDecoder) rfl s (by simp [mem_registry_iff])
    (onMessage_of_formula (depthDecoder_formula _))

/-- Settles O20: the `AWA` decoder emits from the two payload bytes. -/
theorem execAwaCompletes : Obligations.ExecAwaCompletes :=
  fun p0 p1 s => exec_of_emitted (m := ⟨0x20, [p0, p1]⟩) (d := awaDecoder) rfl s (by simp [mem_registry_iff])
    (onMessage_of_formula (awaDecoder_formula _))

/-- Settles O21: the `AWS` decoder emits from the two payload bytes. -/
theorem execAwsCompletes : Obligations.ExecAwsCompletes :=
  fun p0 p1 s => exec_of_emitted (m := ⟨0x21, [p0, p1]⟩) (d := awsDecoder) rfl s (by simp [mem_registry_iff])
    (onMessage_of_formula (awsDecoder_formula _))

/-- Settles O22: the `STW` decoder emits from the two payload bytes. -/
theorem execStwCompletes : Obligations.ExecStwCompletes :=
  fun p0 p1 s => exec_of_emitted (m := ⟨0x22, [p0, p1]⟩) (d := stwDecoder) rfl s (by simp [mem_registry_iff])
    (onMessage_of_formula (stwDecoder_formula _))

/-- Settles O23: the `WTEMP` decoder emits from the two payload bytes. -/
theorem execWtempCompletes : Obligations.ExecWtempCompletes :=
  fun p0 p1 s => exec_of_emitted (m := ⟨0x23, [p0, p1]⟩) (d := wtempDecoder) rfl s (by simp [mem_registry_iff])
    (onMessage_of_formula (wtempDecoder_formula _))

/-- Settles O24: `LOG` and `HDG` are framed below their decoders' minimum, and no decoder has an unknown command. -/
theorem execLogHdgUnkComplete : Obligations.ExecLogHdgUnkComplete := by
  refine ⟨fun p0 p1 s => ?log, fun p0 s => ?hdg, fun cmd p0 p1 s hw => ?unk⟩
  case log => exact exec_of_readings_eq_nil (m := ⟨0x26, [p0, p1]⟩) rfl s (readings_eq_nil_of_framed rfl (by simp))
  case hdg => exact exec_of_readings_eq_nil (m := ⟨0x30, [p0]⟩) rfl s (readings_eq_nil_of_framed rfl (by simp))
  case unk =>
    obtain ⟨-, hunknown⟩ := (unk_wellFormed_iff cmd p0 p1).mp hw
    exact exec_of_readings_eq_nil (m := ⟨cmd, [p0, p1]⟩) rfl s (readings_unknown hunknown)

end Sys2Proof.Machine

/-! SUPPORT. Proofs of the statements about reset and refusals (spec 70_reset_and_hazards.md): the reset cycle, when feeding a
byte is refused, and the obligations settled from them. -/

namespace Sys2Proof.Machine

/-- Settles O8: the reset cycle does not look at the state it leaves, but for the cycles still to come. -/
theorem resetCycleFromEveryState : Obligations.ResetCycleFromEveryState :=
  fun _ _ _ hs hr => (step_of_input_cons hs).trans (cycle_of_rst hr)

/-! ## When a byte is refused -/

/-- R182: before the first reset a fed byte has no meaning. -/
theorem feedByte_of_not_wasReset {s : State} (b : Byte) (hw : s.wasReset = false) :
    feedByte s b = .refused .notYetReset := by
  simp [feedByte, hw]

/-- D17: in a register pattern that breaks R25 a fed byte has no meaning. -/
theorem feedByte_of_not_inv {s : State} (b : Byte) (hw : s.wasReset = true) (hp : s.parser.inv lenTable = false) :
    feedByte s b = .refused .unreachableState := by
  simp [feedByte, hw, hp]

/-- Every refusal of a fed byte: the first reset is asked for before R25, and where both are met `feed` has a next state. -/
theorem feedByte_eq_refused_iff {s : State} {b : Byte} {r : Refusal} :
    feedByte s b = .refused r ↔
      (s.wasReset = false ∧ r = .notYetReset) ∨
      (s.wasReset = true ∧ s.parser.inv lenTable = false ∧ r = .unreachableState) := by
  cases hw : s.wasReset with
  | false => simpa [feedByte_of_not_wasReset b hw] using eq_comm
  | true =>
    cases hp : s.parser.inv lenTable with
    | false => simpa [feedByte_of_not_inv b hw hp] using eq_comm
    | true =>
      obtain ⟨t, ht, -⟩ := feedByte_next ⟨hw, hp⟩ b
      simp [ht]

/-- A step is refused only where it feeds a byte, and then as that byte is (R110, R180). -/
theorem step_eq_refused_iff {s : State} {r : Refusal} :
    step s = .refused r ↔
      ∃ c rest, s.input = c :: rest ∧ c.rst = false ∧ c.inValid = true ∧
        feedByte { s with input := rest } c.inByte = .refused r := by
  cases hi : s.input with
  | nil => simp [step_of_input_nil hi]
  | cons c rest =>
    rw [step_of_input_cons hi]
    cases hr : c.rst with
    | true => simp [cycle_of_rst hr, hr]
    | false =>
      cases hv : c.inValid with
      | false => simp [cycle_of_gap hr hv, hv]
      | true => simp [cycle_of_feed hr hv, hr, hv]

/-- Settles O42: a refused step is a refused byte, and each of the two reasons a byte is refused for has its own name. -/
theorem refusedExactlyWhereTheSpecIsSilent : Obligations.RefusedExactlyWhereTheSpecIsSilent := by
  refine ⟨fun s => ?notYetReset, fun s => ?unreachableState, fun s r h => ?noOther⟩
  case notYetReset => simp [step_eq_refused_iff, feedByte_eq_refused_iff]
  case unreachableState => simp [step_eq_refused_iff, feedByte_eq_refused_iff]
  case noOther =>
    obtain ⟨c, rest, -, -, -, hfeed⟩ := step_eq_refused_iff.mp h
    obtain ⟨-, hr⟩ | ⟨-, -, hr⟩ := feedByte_eq_refused_iff.mp hfeed
    · exact .inl hr
    · exact .inr hr

end Sys2Proof.Machine
